-- ==== Sys2Proof/Word.lean ====
section
/-!
DEFINITION. The byte of the variable FIFO's storage. Every pointer, offset, length and slot value of the
spec is an unsigned integer (00_scope.md R14) and is a `Nat` here.
-/
namespace Sys2Proof

/-- One byte of `v_mem` (10_state.md R39). -/
abbrev Byte := BitVec 8

end Sys2Proof
end

