-- ==== Sys2Proof/Config.lean ====
section
/-!
DEFINITION. The elaboration parameters (00_scope.md R11) and the refusal of an illegal configuration
(60_exceptions.md R289). A configuration carries the proof that it is legal, so an instance of the block
with illegal parameters cannot be written down at all. The spec leaves no free value to this file.
-/
namespace Sys2Proof

/-- Parameters of a fixed-slot instance (00_scope.md R11). -/
structure FixedParams where
  /-- `F_W`: width of a slot in bits. -/
  fW : Nat
  /-- `F_AW`: width of a slot index in bits. -/
  fAw : Nat
  /-- `S`: synchroniser stages per crossing. -/
  stages : Nat
  deriving DecidableEq, Repr

/-- The legal values of R11 for a fixed-slot instance. -/
abbrev FixedParams.Legal (p : FixedParams) : Prop :=
  1 ≤ p.fW ∧ 1 ≤ p.fAw ∧ p.fAw ≤ 31 ∧ 2 ≤ p.stages

/-- A legal configuration of a fixed-slot instance. -/
structure FixedConfig extends FixedParams where
  legal : toFixedParams.Legal
  deriving DecidableEq, Repr

/-- `N = 2^F_AW`, the number of slots (R11). -/
def FixedConfig.slots (c : FixedConfig) : Nat := 2 ^ c.fAw

/-- Elaboration of a fixed-slot instance: refused outside the legal values (60_exceptions.md R289). -/
def FixedConfig.elaborate (p : FixedParams) : Option FixedConfig :=
  if h : p.Legal then some { toFixedParams := p, legal := h } else none

/-- Parameters of a variable-length instance (00_scope.md R11). -/
structure VarParams where
  /-- `L`: width of a byte offset in bits. -/
  l : Nat
  /-- `K`: log2 of the block size. -/
  k : Nat
  /-- `S`: synchroniser stages per crossing. -/
  stages : Nat
  deriving DecidableEq, Repr

/-- The legal values of R11 for a variable-length instance. -/
abbrev VarParams.Legal (p : VarParams) : Prop :=
  4 ≤ p.l ∧ p.l ≤ 31 ∧ 3 ≤ p.k ∧ p.k + 1 ≤ p.l ∧ 2 ≤ p.stages

/-- A legal configuration of a variable-length instance. -/
structure VarConfig extends VarParams where
  legal : toVarParams.Legal
  deriving DecidableEq, Repr

/-- `C = 2^L`, the capacity in bytes (R11). -/
def VarConfig.capacity (c : VarConfig) : Nat := 2 ^ c.l

/-- `B = 2^K`, the block size in bytes (R11). -/
def VarConfig.block (c : VarConfig) : Nat := 2 ^ c.k

/-- `P = L - K`, the width of a block index in bits (R11). -/
def VarConfig.ptrWidth (c : VarConfig) : Nat := c.l - c.k

/-- `NB = 2^P`, the number of blocks (R11). -/
def VarConfig.blocks (c : VarConfig) : Nat := 2 ^ c.ptrWidth

/-- Elaboration of a variable-length instance: refused outside the legal values (60_exceptions.md R289). -/
def VarConfig.elaborate (p : VarParams) : Option VarConfig :=
  if h : p.Legal then some { toVarParams := p, legal := h } else none

/-- `HDR`, the size of a message header in bytes (R11). -/
def hdrBytes : Nat := 8

/-- The fixed-slot configuration `State.reset` takes: the small example values of 95_test_vectors.md
section 0 (F_AW = 2, F_W = 8, S = 2). DESIGN CHOICE (log 2), unsafe for a claim about `State.reset` alone. -/
def fixedExample : FixedConfig := { fW := 8, fAw := 2, stages := 2, legal := by decide }

/-- The variable-length configuration `State.reset` takes: the example values of 95_test_vectors.md
section 0 (L = 9, K = 3, S = 2). DESIGN CHOICE (log 2), unsafe for a claim about `State.reset` alone. -/
def varExample : VarConfig := { l := 9, k := 3, stages := 2, legal := by decide }

end Sys2Proof
end

