-- ==== Sys2Proof/Syntax.lean ====
section
/-!
DEFINITION. The ports (30_encoding.md R100) and the commands, one constructor for each of the sixteen
encodings of the command map (30_encoding.md R111, opcode_table.json).

A constructor carries EVERY field of its port's word, the ones its command ignores too (R112): the fault
record keeps the full command word that was presented (60_exceptions.md R272). DESIGN CHOICE (log 9), safe.
-/
namespace Sys2Proof

/-- The four ports (30_encoding.md R100). -/
inductive Port where
  | fp | fc | vp | vc
  deriving DecidableEq, Repr

/-- The two clock domains of an instance (00_scope.md R7). -/
inductive Domain where
  | write | read
  deriving DecidableEq, Repr

/-- The two kinds of instance (00_scope.md R3). -/
inductive Kind where
  | fixedSlot | variableLength
  deriving DecidableEq, Repr

/-- The domain a port belongs to (30_encoding.md R100). -/
def Port.domain : Port → Domain
  | .fp => .write
  | .fc => .read
  | .vp => .write
  | .vc => .read

/-- The kind of instance a port belongs to (30_encoding.md R100). -/
def Port.kind : Port → Kind
  | .fp => .fixedSlot
  | .fc => .fixedSlot
  | .vp => .variableLength
  | .vc => .variableLength

/-- A command with its word's fields (30_encoding.md R101 to R104, R111). -/
inductive Instr where
  /-- FP op 00 (41_fixed_slot_fifo.md R133); `data` is ignored. -/
  | fpNop (data : Nat)
  /-- FP op 01 (R134); `data` is ignored. -/
  | fpAlloc (data : Nat)
  /-- FP op 10 (R135); `data` is the slot value. -/
  | fpWrite (data : Nat)
  /-- FP op 11 (R136); `data` is ignored. -/
  | fpPush (data : Nat)
  /-- FC op 00 (R137). -/
  | fcNop
  /-- FC op 01 (R138). -/
  | fcFront
  /-- FC op 10 (R139). -/
  | fcPop
  /-- FC op 11, reserved (R140). -/
  | fcReserved
  /-- VP op 00 (42_variable_packet_fifo.md R185); `a` and `b` are ignored. -/
  | vpNop (a : Nat) (b : Byte)
  /-- VP op 01 (R186); field `a` is the payload length `len`, `b` is ignored. -/
  | vpAlloc (len : Nat) (b : Byte)
  /-- VP op 10 (R187); field `a` is the payload offset `off`, `b` the byte. -/
  | vpWrite (off : Nat) (b : Byte)
  /-- VP op 11 (R188); `a` and `b` are ignored. -/
  | vpPush (a : Nat) (b : Byte)
  /-- VC op 00 (R189); `a` is ignored. -/
  | vcNop (a : Nat)
  /-- VC op 01 (R190); `a` is ignored. -/
  | vcFront (a : Nat)
  /-- VC op 10 (R191); field `a` is the payload offset `off`. -/
  | vcRead (off : Nat)
  /-- VC op 11 (R192); `a` is ignored. -/
  | vcPop (a : Nat)
  deriving DecidableEq, Repr

/-- The one port a command can be presented at (30_encoding.md R100). -/
def Instr.port : Instr → Port
  | .fpNop _ => .fp
  | .fpAlloc _ => .fp
  | .fpWrite _ => .fp
  | .fpPush _ => .fp
  | .fcNop => .fc
  | .fcFront => .fc
  | .fcPop => .fc
  | .fcReserved => .fc
  | .vpNop _ _ => .vp
  | .vpAlloc _ _ => .vp
  | .vpWrite _ _ => .vp
  | .vpPush _ _ => .vp
  | .vcNop _ => .vc
  | .vcFront _ => .vc
  | .vcRead _ => .vc
  | .vcPop _ => .vc

/-- The command's `op` field (30_encoding.md R111). -/
def Instr.op : Instr → Nat
  | .fpNop _ => 0
  | .fpAlloc _ => 1
  | .fpWrite _ => 2
  | .fpPush _ => 3
  | .fcNop => 0
  | .fcFront => 1
  | .fcPop => 2
  | .fcReserved => 3
  | .vpNop _ _ => 0
  | .vpAlloc _ _ => 1
  | .vpWrite _ _ => 2
  | .vpPush _ _ => 3
  | .vcNop _ => 0
  | .vcFront _ => 1
  | .vcRead _ => 2
  | .vcPop _ => 3

end Sys2Proof
end

