-- ==== Sys2Proof/Machine/Operands.lean ====
section
/-!
DEFINITION. Operand assembly (30_encoding.md R101 to R104, R110): the fields of a command word as unsigned
bit fields, and the word made of given fields. No operand is sign-extended, scaled or shifted.
-/
namespace Sys2Proof.Machine

/-- `v[hi:lo]` (00_scope.md R14). -/
def bitField (v hi lo : Nat) : Nat := v / 2 ^ lo % 2 ^ (hi + 1 - lo)

/-- `op = word[1:0]` of every format (30_encoding.md R101 to R104). -/
def opField (w : Nat) : Nat := bitField w 1 0

/-- `data = FPW[F_W+1:2]` (R110). -/
def fpDataField (c : FixedConfig) (w : Nat) : Nat := bitField w (c.fW + 1) 2

/-- `a = VPW[L+1:2]` (R110). -/
def vpAField (c : VarConfig) (w : Nat) : Nat := bitField w (c.l + 1) 2

/-- `b = VPW[L+9:L+2]` (R110). -/
def vpBField (c : VarConfig) (w : Nat) : Byte := BitVec.ofNat 8 (bitField w (c.l + 9) (c.l + 2))

/-- `a = VCW[L+1:2]` (R110). -/
def vcAField (c : VarConfig) (w : Nat) : Nat := bitField w (c.l + 1) 2

/-- The word FPW with the given fields (R101). -/
def fpWord (op data : Nat) : Nat := op + 2 ^ 2 * data

/-- The word FCW with the given field (R102). -/
def fcWord (op : Nat) : Nat := op

/-- The word VPW with the given fields (R103). -/
def vpWord (c : VarConfig) (op a : Nat) (b : Byte) : Nat := op + 2 ^ 2 * a + 2 ^ (c.l + 2) * b.toNat

/-- The word VCW with the given fields (R104). -/
def vcWord (op a : Nat) : Nat := op + 2 ^ 2 * a

/-- The fixed width of a port's command word (R101 to R104, R114). -/
def portWidth (fc : FixedConfig) (vc : VarConfig) : Port → Nat
  | .fp => fc.fW + 2
  | .fc => 2
  | .vp => vc.l + 10
  | .vc => vc.l + 2

end Sys2Proof.Machine
end

