-- ==== Sys2Proof/WellFormed.lean ====
section
/-!
DEFINITION. When a command's fields fit its port's word (30_encoding.md R101 to R104): `data` in F_W bits,
`a` in L bits. `b` is a byte by its type, and FC has no field beside `op`. No operand value that fits is
illegal (R112).
-/
namespace Sys2Proof

/-- Every field fits the word of the command's port (30_encoding.md R101 to R104, R110). -/
abbrev Instr.WellFormed (fc : FixedConfig) (vc : VarConfig) (i : Instr) : Prop :=
  match i with
  | .fpNop data => data < 2 ^ fc.fW
  | .fpAlloc data => data < 2 ^ fc.fW
  | .fpWrite data => data < 2 ^ fc.fW
  | .fpPush data => data < 2 ^ fc.fW
  | .fcNop => True
  | .fcFront => True
  | .fcPop => True
  | .fcReserved => True
  | .vpNop a _ => a < 2 ^ vc.l
  | .vpAlloc len _ => len < 2 ^ vc.l
  | .vpWrite off _ => off < 2 ^ vc.l
  | .vpPush a _ => a < 2 ^ vc.l
  | .vcNop a => a < 2 ^ vc.l
  | .vcFront a => a < 2 ^ vc.l
  | .vcRead off => off < 2 ^ vc.l
  | .vcPop a => a < 2 ^ vc.l

end Sys2Proof
end

