-- ==== Sys2Proof/Decode.lean ====
section
/-!
DEFINITION. The decoder, the encoder, and the decoder as the host asks it about the opcode table
(30_encoding.md R100 to R104, R110 to R112, R114).

A command word does not say which port it stands on; the port is the wiring's (R100), so the decoder takes
it as an argument. Every op value of every port decodes, FC op 11 included: that command is the reserved
one, whose meaning is to record fault 4 (41_fixed_slot_fifo.md R140).
-/
namespace Sys2Proof

/-- Why a number is no command of a port. -/
inductive DecodeError where
  /-- The number has more bits than the port's word (30_encoding.md R114). -/
  | wordTooWide (port : Port)
  deriving DecidableEq, Repr

/-- The command map of the FP port (30_encoding.md R111). -/
def decodeFp (c : FixedConfig) (w : Nat) : Instr :=
  match Machine.opField w with
  | 0 => .fpNop (Machine.fpDataField c w)
  | 1 => .fpAlloc (Machine.fpDataField c w)
  | 2 => .fpWrite (Machine.fpDataField c w)
  | _ => .fpPush (Machine.fpDataField c w)

/-- The command map of the FC port (R111). -/
def decodeFc (w : Nat) : Instr :=
  match Machine.opField w with
  | 0 => .fcNop
  | 1 => .fcFront
  | 2 => .fcPop
  | _ => .fcReserved

/-- The command map of the VP port (R111). -/
def decodeVp (c : VarConfig) (w : Nat) : Instr :=
  match Machine.opField w with
  | 0 => .vpNop (Machine.vpAField c w) (Machine.vpBField c w)
  | 1 => .vpAlloc (Machine.vpAField c w) (Machine.vpBField c w)
  | 2 => .vpWrite (Machine.vpAField c w) (Machine.vpBField c w)
  | _ => .vpPush (Machine.vpAField c w) (Machine.vpBField c w)

/-- The command map of the VC port (R111). -/
def decodeVc (c : VarConfig) (w : Nat) : Instr :=
  match Machine.opField w with
  | 0 => .vcNop (Machine.vcAField c w)
  | 1 => .vcFront (Machine.vcAField c w)
  | 2 => .vcRead (Machine.vcAField c w)
  | _ => .vcPop (Machine.vcAField c w)

/-- The command a word presented at a port stands for. A number too wide for the port's wires is no word of
that port and is rejected by name (R114; log 10). -/
def decode (fc : FixedConfig) (vc : VarConfig) (port : Port) (w : Nat) : Except DecodeError Instr :=
  if 2 ^ Machine.portWidth fc vc port ≤ w then .error (.wordTooWide port)
  else
    match port with
    | .fp => .ok (decodeFp fc w)
    | .fc => .ok (decodeFc w)
    | .vp => .ok (decodeVp vc w)
    | .vc => .ok (decodeVc vc w)

/-- The command word of a command (30_encoding.md R101 to R104, R111). -/
def encode (vc : VarConfig) : Instr → Nat
  | .fpNop data => Machine.fpWord 0 data
  | .fpAlloc data => Machine.fpWord 1 data
  | .fpWrite data => Machine.fpWord 2 data
  | .fpPush data => Machine.fpWord 3 data
  | .fcNop => Machine.fcWord 0
  | .fcFront => Machine.fcWord 1
  | .fcPop => Machine.fcWord 2
  | .fcReserved => Machine.fcWord 3
  | .vpNop a b => Machine.vpWord vc 0 a b
  | .vpAlloc len b => Machine.vpWord vc 1 len b
  | .vpWrite off b => Machine.vpWord vc 2 off b
  | .vpPush a b => Machine.vpWord vc 3 a b
  | .vcNop a => Machine.vcWord 0 a
  | .vcFront a => Machine.vcWord 1 a
  | .vcRead off => Machine.vcWord 2 off
  | .vcPop a => Machine.vcWord 3 a

/-- The port the host's questions about the opcode table are put to. A row's bits alone do not tell the
four ports apart (every row is op in bits 1:0), and `State.reset` presents nothing at any port, so one port
must be chosen. DESIGN CHOICE (log 11), safe: no step depends on it. -/
def tablePort : Port := .fp

/-- The command the decoder reads from the `nbits` low bits of `w`, presented at `tablePort` of the
configuration of `State.reset`. -/
def decodeTableWord (nbits w : Nat) : Option Instr :=
  match decode fixedExample varExample tablePort (w % 2 ^ nbits) with
  | .ok i => some i
  | .error _ => none

end Sys2Proof
end

