-- ==== Sys2Proof/Machine/State.lean ====
section
/-!
DEFINITION. The state of the machine as plain data (10_state.md), the reasons a step can stop, and the
state after reset.

The machine is one fixed-slot instance and one variable-length instance of the block, which are independent
(00_scope.md R3; log 1), the edges and resets still to come (log 4), and the response of the edge taken last
(log 7). A register is a `Nat` (00_scope.md R14: every pointer, offset, length and count is an unsigned
integer); `Safety.lean` says that it fits its width, and that every step keeps it so is an obligation (log 3).
-/
namespace Sys2Proof.Machine

/-- The fault codes (60_exceptions.md R271). -/
inductive FaultCode where
  | fWriteNoResv | fPushNoResv | fPopEmpty | fReservedCmd | fReadUnwritten
  | vWriteNoResv | vWriteRange | vPushNoResv | vReadEmpty | vReadRange | vReadUnwritten
  | vPopEmpty | vHeaderInvalid
  deriving DecidableEq, Repr

/-- The fault record's content: code, domain and the full command word (10_state.md R45, 60_exceptions.md R272). -/
structure FaultRecord where
  code : FaultCode
  domain : Domain
  cmd : Nat
  deriving DecidableEq, Repr

/-- Storage as a list of (address, value) pairs, addresses strictly rising. An address not listed holds `⊥`:
nothing has written it since power-up (00_scope.md R17, 10_state.md R34, R39; log 13). -/
abbrev Store (α : Type) := List (Nat × α)

/-- A fixed-slot instance (10_state.md R32 to R34, R45). -/
structure Fixed where
  cfg : FixedConfig
  /-- `f_tail` (R32). -/
  tail : Nat
  /-- `f_resv` (R32). -/
  resv : Bool
  /-- `f_wpub` (R32). -/
  wpub : Nat
  /-- `f_wgray` (R32). -/
  wgray : Nat
  /-- `f_rsync[0..S-1]`, stage 0 first (R32). -/
  rsync : List Nat
  /-- `f_head` (R33). -/
  head : Nat
  /-- `f_rpub` (R33). -/
  rpub : Nat
  /-- `f_rgray` (R33). -/
  rgray : Nat
  /-- `f_wsync[0..S-1]`, stage 0 first (R33). -/
  wsync : List Nat
  /-- `f_mem[0..N-1]` (R34). -/
  mem : Store Nat
  /-- The sticky fault record (R45). -/
  fault : Option FaultRecord
  deriving DecidableEq, Repr

/-- A variable-length instance (10_state.md R37 to R39, R45). -/
structure Variable where
  cfg : VarConfig
  /-- `v_tail` (R37). -/
  tail : Nat
  /-- `v_resv` (R37). -/
  resv : Bool
  /-- `v_resv_off` (R37). -/
  resvOff : Nat
  /-- `v_resv_total` (R37). -/
  resvTotal : Nat
  /-- `v_resv_len` (R37). -/
  resvLen : Nat
  /-- `v_wpub`, in blocks (R37). -/
  wpub : Nat
  /-- `v_wgray` (R37). -/
  wgray : Nat
  /-- `v_rsync[0..S-1]`, stage 0 first (R37). -/
  rsync : List Nat
  /-- `v_head` (R38). -/
  head : Nat
  /-- `v_rpub`, in blocks (R38). -/
  rpub : Nat
  /-- `v_rgray` (R38). -/
  rgray : Nat
  /-- `v_wsync[0..S-1]`, stage 0 first (R38). -/
  wsync : List Nat
  /-- `v_mem[0..C-1]` (R39). -/
  mem : List Host.Cell
  /-- The sticky fault record (R45). -/
  fault : Option FaultRecord
  deriving DecidableEq, Repr

/-- The fixed producer response FPR (30_encoding.md R105); `none` is a field that carries no value (R109). -/
structure FpResp where
  ok : Option Bool
  slot : Option Nat
  deriving DecidableEq, Repr

/-- The fixed consumer response FCR (R106, R109). -/
structure FcResp where
  ok : Option Bool
  slot : Option Nat
  data : Option Nat
  deriving DecidableEq, Repr

/-- The variable producer response VPR (R107, R109). -/
structure VpResp where
  ok : Option Bool
  hoff : Option Nat
  deriving DecidableEq, Repr

/-- The variable consumer response VCR (R108, R109). -/
structure VcResp where
  ok : Option Bool
  hoff : Option Nat
  total : Option Nat
  len : Option Nat
  byte : Option Byte
  deriving DecidableEq, Repr

/-- What the edge taken last drove: nothing (a faulting edge, an edge that was not taken, a reset), or its
port's response (30_encoding.md R105 to R108, 60_exceptions.md R274, 70_reset_and_hazards.md R301). -/
inductive Response where
  | none
  | fp (r : FpResp)
  | fc (r : FcResp)
  | vp (r : VpResp)
  | vc (r : VcResp)
  deriving DecidableEq, Repr

/-- What the clocks and the callers do next: an edge of a port's clock with the command word presented at
it, or the reset input of an instance (00_scope.md R8, R9, 70_reset_and_hazards.md R300). -/
inductive Event where
  | edge (port : Port) (word : Nat)
  | reset (kind : Kind)
  deriving DecidableEq, Repr

/-- The whole machine. -/
structure State where
  fixed : Fixed
  var : Variable
  /-- Edges and resets still to come, oldest first (log 4). -/
  pending : List Event
  /-- The response of the edge taken last (log 7). -/
  resp : Response
  deriving DecidableEq, Repr

/-- Why the machine stops with a fault. The thirteen codes of 60_exceptions.md R271 are NOT here: recording
one is a next state, as the spec describes it. -/
inductive Fault where
  /-- A command part would access a storage address the spec says does not exist (20_memory.md R78, R79).
  Raised by FP.WRITE, FC.FRONT, VP.ALLOC, VP.WRITE, VC.FRONT, VC.READ and VC.POP, and only from states no
  run reaches (10_state.md R49, 20_memory.md R74; log 12). Safe. -/
  | noSuchAddress (addr : Nat)
  deriving DecidableEq, Repr

/-- Why a step has no meaning. -/
inductive Refusal where
  /-- Raised by no arm of `exec`: every command has its meaning. Safe. -/
  | notModelled (mnemonic : String)
  /-- An edge was listed with a number that has more bits than the port's word; no such edge exists
  (30_encoding.md R114; log 10). Raised by `step` alone. Safe. -/
  | wordTooWide (port : Port)
  deriving DecidableEq, Repr

/-- A fixed-slot instance right after the first `Reset` after power-up: every register at its value of
10_state.md R48, all storage `⊥` (70_reset_and_hazards.md R306). -/
def Fixed.powerUp (c : FixedConfig) : Fixed where
  cfg := c
  tail := 0
  resv := false
  wpub := 0
  wgray := 0
  rsync := List.replicate c.stages 0
  head := 0
  rpub := 0
  rgray := 0
  wsync := List.replicate c.stages 0
  mem := []
  fault := none

/-- A variable-length instance right after the first `Reset` after power-up (10_state.md R48,
70_reset_and_hazards.md R306). -/
def Variable.powerUp (c : VarConfig) : Variable where
  cfg := c
  tail := 0
  resv := false
  resvOff := 0
  resvTotal := 0
  resvLen := 0
  wpub := 0
  wgray := 0
  rsync := List.replicate c.stages 0
  head := 0
  rpub := 0
  rgray := 0
  wsync := List.replicate c.stages 0
  mem := []
  fault := none

/-- The machine with the given configurations right after the first `Reset` after power-up, with nothing
presented yet. -/
def State.resetOf (fc : FixedConfig) (vc : VarConfig) : State where
  fixed := Fixed.powerUp fc
  var := Variable.powerUp vc
  pending := []
  resp := .none

/-- The machine right after reset, at the example configurations (log 2). -/
def State.reset : State := State.resetOf fixedExample varExample

end Sys2Proof.Machine
end

