-- ==== Sys2Proof/Machine/Gray.lean ====
section
/-!
DEFINITION. Circular distance, the Gray code, the publish step and the synchroniser shift
(00_scope.md R14, 43_gray_pointer_sync.md R230 to R241).
-/
namespace Sys2Proof.Machine

/-- `cdist(a, b, M) = (b - a) mod M`, the forward distance from `a` to `b` on a ring of `M` positions
(00_scope.md R14). For `a ≤ M` the sum below is `b - a + M`, so nothing is cut at 0. -/
def cdist (a b m : Nat) : Nat := (b + (m - a % m)) % m

/-- `bin2gray_n(x) = x XOR (x >> 1)` for an n-bit value `x` (R230). -/
def bin2gray (x : Nat) : Nat := x ^^^ (x >>> 1)

/-- The XOR of `g >> 0` to `g >> (k - 1)`: bit `i` is the XOR of `g[i + k - 1 : i]`. -/
def xorShifts : Nat → Nat → Nat
  | 0, _ => 0
  | k + 1, g => xorShifts k g ^^^ (g >>> k)

/-- `gray2bin_n(g)`: bit `i` is the XOR of `g[n-1:i]` (R231). Bits of `g` above `n` are no part of an n-bit
value and are left out. -/
def gray2bin (n g : Nat) : Nat := xorShifts n (g % 2 ^ n)

/-- `PublishStep(pub, ptr, M)` (R233). -/
def publishStep (pub ptr m : Nat) : Nat := if pub = ptr then pub else (pub + 1) % m

/-- One edge of an S-stage `gray_counter_sync` (R239): stage 0 takes the sampled Gray register, stage `i`
takes what stage `i - 1` held. -/
def shiftIn (stages : Nat) (sample : Nat) (sync : List Nat) : List Nat := (sample :: sync).take stages

/-- `sync[S-1]`, the stage a view is decoded from (R241). -/
def lastStage (stages : Nat) (sync : List Nat) : Nat := sync.getD (stages - 1) 0

end Sys2Proof.Machine
end

