-- ==== Sys2Proof/Machine/Ops.lean ====
section
/-!
DEFINITION. The shared operations: storage, the views of the other domain's pointer, what every edge does
around its command, recording a fault, and Reset.
-/
namespace Sys2Proof.Machine

/-! ### Storage (00_scope.md R16, R17; 20_memory.md R70, R78, R79) -/

/-- Why a command part does not complete: it raises a fault of 60_exceptions.md R271, or it would access an
address the spec says does not exist (log 12). -/
inductive Stop where
  | record (code : FaultCode)
  | noAddress (addr : Nat)
  deriving DecidableEq, Repr

/-- The content of address `a`, `none` for `⊥`. -/
def storeRead {α : Type} : Store α → Nat → Option α
  | [], _ => none
  | (k, v) :: m, a => if k = a then some v else storeRead m a

/-- `m[a] <- v`, keeping the addresses rising. -/
def storeWrite {α : Type} : Store α → Nat → α → Store α
  | [], a, v => [(a, v)]
  | (k, w) :: m, a, v =>
    if a < k then (a, v) :: (k, w) :: m
    else if a = k then (a, v) :: m
    else (k, w) :: storeWrite m a v

/-- The canonical form of storage: addresses strictly rising. No entry can equal what an unlisted address
reads as, since `⊥` is no value. -/
abbrev Store.wf {α : Type} (m : Store α) : Prop := m.Pairwise fun x y => x.1 < y.1

/-- Every listed address exists in a space of `size` elements (20_memory.md R78, R79). -/
abbrev Store.within {α : Type} (size : Nat) (m : Store α) : Prop := ∀ c ∈ m, c.1 < size

/-- Read of one element of a space of `size` elements. -/
def readCell {α : Type} (size : Nat) (m : Store α) (a : Nat) : Except Stop (Option α) :=
  if a < size then .ok (storeRead m a) else .error (.noAddress a)

/-- Write of one element of a space of `size` elements. -/
def writeCell {α : Type} (size : Nat) (m : Store α) (a : Nat) (v : α) : Except Stop (Store α) :=
  if a < size then .ok (storeWrite m a v) else .error (.noAddress a)

/-- `n` bytes from `o` up combined little-endian, `⊥` if one of them is (00_scope.md R16, R17, 20_memory.md R70). -/
def leRead (m : List Host.Cell) (o : Nat) : Nat → Option Nat
  | 0 => some 0
  | n + 1 =>
    match storeRead m o, leRead m (o + 1) n with
    | some b, some rest => some (b.toNat + 2 ^ 8 * rest)
    | _, _ => none

/-- The `n` low bytes of `v` written little-endian from `o` up (00_scope.md R16, 20_memory.md R70). -/
def leWrite (m : List Host.Cell) (o : Nat) : Nat → Nat → List Host.Cell
  | 0, _ => m
  | n + 1, v => leWrite (storeWrite m o (BitVec.ofNat 8 v)) (o + 1) n (v / 2 ^ 8)

/-- `MemRead(o, n)` (00_scope.md R16). -/
def vMemRead (c : VarConfig) (m : List Host.Cell) (o n : Nat) : Except Stop (Option Nat) :=
  if o + n ≤ c.capacity then .ok (leRead m o n) else .error (.noAddress o)

/-- `MemWrite(o, n, v)` (00_scope.md R16). -/
def vMemWrite (c : VarConfig) (m : List Host.Cell) (o n v : Nat) : Except Stop (List Host.Cell) :=
  if o + n ≤ c.capacity then .ok (leWrite m o n v) else .error (.noAddress o)

/-! ### Views (10_state.md R36, R40; 43_gray_pointer_sync.md R241) -/

/-- `f_head_w`. -/
def Fixed.headW (f : Fixed) : Nat := gray2bin f.cfg.fAw (lastStage f.cfg.stages f.rsync)

/-- `f_tail_r`. -/
def Fixed.tailR (f : Fixed) : Nat := gray2bin f.cfg.fAw (lastStage f.cfg.stages f.wsync)

/-- `v_head_w`. -/
def Variable.headW (v : Variable) : Nat :=
  gray2bin v.cfg.ptrWidth (lastStage v.cfg.stages v.rsync) * v.cfg.block

/-- `v_tail_r`. -/
def Variable.tailR (v : Variable) : Nat :=
  gray2bin v.cfg.ptrWidth (lastStage v.cfg.stages v.wsync) * v.cfg.block

/-! ### What every edge does beside its command (43_gray_pointer_sync.md R234 to R239, R250 to R253)

`pre` is the state before the edge; every right-hand side reads it. -/

/-- Publish step and synchroniser shift of a fixed FIFO's write-domain edge (R234, R239, R250). -/
def Fixed.wTick (f pre : Fixed) : Fixed :=
  { f with
    wpub := publishStep pre.wpub pre.tail pre.cfg.slots
    wgray := bin2gray (publishStep pre.wpub pre.tail pre.cfg.slots)
    rsync := shiftIn pre.cfg.stages pre.rgray pre.rsync }

/-- Publish step and synchroniser shift of a fixed FIFO's read-domain edge (R235, R239, R251). -/
def Fixed.rTick (f pre : Fixed) : Fixed :=
  { f with
    rpub := publishStep pre.rpub pre.head pre.cfg.slots
    rgray := bin2gray (publishStep pre.rpub pre.head pre.cfg.slots)
    wsync := shiftIn pre.cfg.stages pre.wgray pre.wsync }

/-- Publish step and synchroniser shift of a variable FIFO's write-domain edge (R236, R239, R252). -/
def Variable.wTick (v pre : Variable) : Variable :=
  { v with
    wpub := publishStep pre.wpub (pre.tail / pre.cfg.block) pre.cfg.blocks
    wgray := bin2gray (publishStep pre.wpub (pre.tail / pre.cfg.block) pre.cfg.blocks)
    rsync := shiftIn pre.cfg.stages pre.rgray pre.rsync }

/-- Publish step and synchroniser shift of a variable FIFO's read-domain edge (R237, R239, R253). -/
def Variable.rTick (v pre : Variable) : Variable :=
  { v with
    rpub := publishStep pre.rpub (pre.head / pre.cfg.block) pre.cfg.blocks
    rgray := bin2gray (publishStep pre.rpub (pre.head / pre.cfg.block) pre.cfg.blocks)
    wsync := shiftIn pre.cfg.stages pre.wgray pre.wsync }

/-! ### Recording a fault (60_exceptions.md R272, R274): nothing but the record changes -/

/-- `fault <- SOME(code, domain, cmd)` of a fixed-slot instance. -/
def Fixed.takeFault (f : Fixed) (code : FaultCode) (domain : Domain) (cmd : Nat) : Fixed :=
  { f with fault := some { code := code, domain := domain, cmd := cmd } }

/-- `fault <- SOME(code, domain, cmd)` of a variable-length instance. -/
def Variable.takeFault (v : Variable) (code : FaultCode) (domain : Domain) (cmd : Nat) : Variable :=
  { v with fault := some { code := code, domain := domain, cmd := cmd } }

/-! ### Edges (43_gray_pointer_sync.md R250 to R254) -/

/-- The state with the fixed-slot instance and the response replaced. -/
def State.putFixed (s : State) (f : Fixed) (r : Response) : State := { s with fixed := f, resp := r }

/-- The state with the variable-length instance and the response replaced. -/
def State.putVar (s : State) (v : Variable) (r : Response) : State := { s with var := v, resp := r }

/-- `WEdge_F(cmd)` (R250), given what the command part of `cmd` does on the state before the edge. A faulted
instance does not take the edge: it stays as it is and drives no response (R254, 60_exceptions.md R275; log 6). -/
def fixedWEdge (s : State) (cmd : Nat) (part : Except Stop (Fixed × FpResp)) : Host.Outcome State Fault Refusal :=
  match s.fixed.fault with
  | some _ => .next (s.putFixed s.fixed .none)
  | none =>
    match part with
    | .error (.record code) => .next (s.putFixed (s.fixed.takeFault code .write cmd) .none)
    | .error (.noAddress a) => .fault (.noSuchAddress a)
    | .ok (f, r) => .next (s.putFixed (f.wTick s.fixed) (.fp r))

/-- `REdge_F(cmd)` (R251). -/
def fixedREdge (s : State) (cmd : Nat) (part : Except Stop (Fixed × FcResp)) : Host.Outcome State Fault Refusal :=
  match s.fixed.fault with
  | some _ => .next (s.putFixed s.fixed .none)
  | none =>
    match part with
    | .error (.record code) => .next (s.putFixed (s.fixed.takeFault code .read cmd) .none)
    | .error (.noAddress a) => .fault (.noSuchAddress a)
    | .ok (f, r) => .next (s.putFixed (f.rTick s.fixed) (.fc r))

/-- `WEdge_V(cmd)` (R252). -/
def varWEdge (s : State) (cmd : Nat) (part : Except Stop (Variable × VpResp)) : Host.Outcome State Fault Refusal :=
  match s.var.fault with
  | some _ => .next (s.putVar s.var .none)
  | none =>
    match part with
    | .error (.record code) => .next (s.putVar (s.var.takeFault code .write cmd) .none)
    | .error (.noAddress a) => .fault (.noSuchAddress a)
    | .ok (v, r) => .next (s.putVar (v.wTick s.var) (.vp r))

/-- `REdge_V(cmd)` (R253). -/
def varREdge (s : State) (cmd : Nat) (part : Except Stop (Variable × VcResp)) : Host.Outcome State Fault Refusal :=
  match s.var.fault with
  | some _ => .next (s.putVar s.var .none)
  | none =>
    match part with
    | .error (.record code) => .next (s.putVar (s.var.takeFault code .read cmd) .none)
    | .error (.noAddress a) => .fault (.noSuchAddress a)
    | .ok (v, r) => .next (s.putVar (v.rTick s.var) (.vc r))

/-! ### Reset (70_reset_and_hazards.md R300 to R303) -/

/-- `Reset` of a fixed-slot instance: every register of both domains and the fault record at the values of
10_state.md R48, storage as it was. -/
def Fixed.doReset (f : Fixed) : Fixed := { Fixed.powerUp f.cfg with mem := f.mem }

/-- `Reset` of a variable-length instance. -/
def Variable.doReset (v : Variable) : Variable := { Variable.powerUp v.cfg with mem := v.mem }

/-- The `Reset` transition of one instance, enabled in every state (R300). It drives no response (R301). -/
def resetStep (s : State) : Kind → Host.Outcome State Fault Refusal
  | .fixedSlot => .next (s.putFixed s.fixed.doReset .none)
  | .variableLength => .next (s.putVar s.var.doReset .none)

/-! ### Presenting a command -/

/-- The list of events with `w` presented at the next edge: at the port of the edge that comes next, and at the
FP port where none does (log 11). -/
def presentWord (pending : List Event) (w : Nat) : List Event :=
  match pending with
  | .edge port _ :: rest => .edge port w :: rest
  | events => .edge .fp w :: events

end Sys2Proof.Machine
end

