-- ==== Sys2Proof/Machine/Packet.lean ====
section
/-!
DEFINITION. Headers, placement and visibility of the variable-length FIFO
(42_variable_packet_fifo.md R170 to R183).
-/
namespace Sys2Proof.Machine

/-- `roundup(x, B) = ((x + B - 1) div B) × B` (00_scope.md R14). -/
def roundup (x b : Nat) : Nat := (x + b - 1) / b * b

/-- `TOTAL` of a message with a `len`-byte payload (42_variable_packet_fifo.md R171). -/
def totalOf (c : VarConfig) (len : Nat) : Nat := roundup (hdrBytes + len) c.block

/-- The offset of payload byte `off` of the message whose header is at `p` (R170). -/
def payloadAddr (p off : Nat) : Nat := p + hdrBytes + off

/-- A decoded header (R173). -/
inductive Header where
  | sentinel
  | message (total len : Nat)
  deriving DecidableEq, Repr

/-- The `KIND` bit of an INFO word (R170). -/
def infoKind (w : Nat) : Nat := w / 2 ^ 31 % 2

/-- The `LEN` field of an INFO word (R170). -/
def infoLen (w : Nat) : Nat := w % 2 ^ 31

/-- The consistency check of `HdrDecode(o)` on the two words of a header (R173). -/
def headerOfWords (c : VarConfig) (o w0 w1 : Nat) : Except Stop Header :=
  if infoKind w1 = 1 then
    if w0 ≠ c.block ∨ infoLen w1 ≠ 0 then .error (.record .vHeaderInvalid) else .ok .sentinel
  else if w0 ≠ totalOf c (infoLen w1) ∨ w0 > c.capacity - c.block ∨ o + w0 > c.capacity then
    .error (.record .vHeaderInvalid)
  else .ok (.message w0 (infoLen w1))

/-- `HdrDecode(o)` (R173). -/
def hdrDecode (c : VarConfig) (m : List Host.Cell) (o : Nat) : Except Stop Header :=
  match vMemRead c m o 4, vMemRead c m (o + 4) 4 with
  | .error e, _ => .error e
  | .ok _, .error e => .error e
  | .ok (some w0), .ok (some w1) => headerOfWords c o w0 w1
  | .ok _, .ok _ => .error (.record .vHeaderInvalid)

/-- The two words of a header written at `o` (R170). -/
def writeHeader (c : VarConfig) (m : List Host.Cell) (o total info : Nat) : Except Stop (List Host.Cell) :=
  match vMemWrite c m o 4 total with
  | .error e => .error e
  | .ok m' => vMemWrite c m' (o + 4) 4 info

/-- The wrap sentinel written at `o` (R172). -/
def writeSentinel (c : VarConfig) (m : List Host.Cell) (o : Nat) : Except Stop (List Host.Cell) :=
  writeHeader c m o c.block 0x80000000

/-- Where a message goes (R177). -/
structure Placement where
  off : Nat
  total : Nat
  wrap : Bool
  deriving DecidableEq, Repr

/-- `VPlace(len)` with `t = v_tail` and `h = v_head_w` (R177, R182). -/
def vPlaceAt (c : VarConfig) (t h len : Nat) : Option Placement :=
  let tot := totalOf c len
  if h ≤ t then
    if t + tot < c.capacity ∨ (t + tot = c.capacity ∧ h ≠ 0) then
      some { off := t, total := tot, wrap := false }
    else if tot < h then some { off := 0, total := tot, wrap := true }
    else none
  else if t + tot < h then some { off := t, total := tot, wrap := false }
  else none

/-- `VPlace(len)` (R177). -/
def vPlace (v : Variable) (len : Nat) : Option Placement := vPlaceAt v.cfg v.tail v.headW len

/-- A message the consumer may read: header offset, TOTAL and LEN (R183). -/
structure Visible where
  off : Nat
  total : Nat
  len : Nat
  deriving DecidableEq, Repr

/-- The message at `p`, `base` bytes past the head, if its whole extent is among the `d` published bytes (R183). -/
def visibleIf (d base p total len : Nat) : Option Visible :=
  if d < base + total then none else some { off := p, total := total, len := len }

/-- `VFrontView()` with `h = v_head` and `tailR = v_tail_r` (R183). -/
def vFrontViewAt (c : VarConfig) (m : List Host.Cell) (h tailR : Nat) : Except Stop (Option Visible) :=
  let d := cdist h tailR c.capacity
  if d = 0 then .ok none
  else
    match hdrDecode c m h with
    | .error e => .error e
    | .ok (.message total len) => .ok (visibleIf d 0 h total len)
    | .ok .sentinel =>
      if d ≤ c.capacity - h then .ok none
      else
        match hdrDecode c m 0 with
        | .error e => .error e
        | .ok .sentinel => .error (.record .vHeaderInvalid)
        | .ok (.message total len) => .ok (visibleIf d (c.capacity - h) 0 total len)

/-- `VFrontView()` (R183). -/
def vFrontView (v : Variable) : Except Stop (Option Visible) := vFrontViewAt v.cfg v.mem v.head v.tailR

end Sys2Proof.Machine
end

