-- ==== Sys2Proof/Machine/Flags.lean ====
section
/-!
DEFINITION. The block stores no flags (10_state.md R42). What stands in their place: the values a response
takes (30_encoding.md R105 to R109) and the status outputs (10_state.md R43), all functions of the state.
-/
namespace Sys2Proof.Machine

/-! ### Responses; a field that is not meaningful is `none` (30_encoding.md R109) -/

/-- FPR at an edge that is no successful or refused FP.ALLOC. -/
def fpSilent : FpResp := { ok := none, slot := none }

/-- FPR of an FP.ALLOC with `ok = 0`. -/
def fpNotReady : FpResp := { ok := some false, slot := none }

/-- FPR of an FP.ALLOC that reserved `slot`. -/
def fpReserved (slot : Nat) : FpResp := { ok := some true, slot := some slot }

/-- FCR at an edge that is no FC.FRONT. -/
def fcSilent : FcResp := { ok := none, slot := none, data := none }

/-- FCR of an FC.FRONT with `ok = 0`. -/
def fcNotReady : FcResp := { ok := some false, slot := none, data := none }

/-- FCR of an FC.FRONT that shows `slot` with content `data`. -/
def fcShown (slot data : Nat) : FcResp := { ok := some true, slot := some slot, data := some data }

/-- VPR at an edge that is no VP.ALLOC. -/
def vpSilent : VpResp := { ok := none, hoff := none }

/-- VPR of a VP.ALLOC with `ok = 0`. -/
def vpNotReady : VpResp := { ok := some false, hoff := none }

/-- VPR of a VP.ALLOC that reserved the message with its header at `hoff`. -/
def vpReserved (hoff : Nat) : VpResp := { ok := some true, hoff := some hoff }

/-- VCR at an edge that is neither VC.FRONT nor VC.READ. -/
def vcSilent : VcResp := { ok := none, hoff := none, total := none, len := none, byte := none }

/-- VCR of a VC.FRONT with `ok = 0`. -/
def vcNotReady : VcResp := { ok := some false, hoff := none, total := none, len := none, byte := none }

/-- VCR of a VC.FRONT that shows a message. -/
def vcShown (m : Visible) : VcResp :=
  { ok := some true, hoff := some m.off, total := some m.total, len := some m.len, byte := none }

/-- VCR of a VC.READ. -/
def vcByte (b : Byte) : VcResp := { ok := none, hoff := none, total := none, len := none, byte := some b }

/-! ### Status outputs (10_state.md R43) -/

/-- `f_wfull` (41_fixed_slot_fifo.md R132). -/
def Fixed.wfull (f : Fixed) : Bool := (f.tail + 1) % f.cfg.slots = f.headW

/-- `f_wresv`. -/
def Fixed.wresv (f : Fixed) : Bool := f.resv

/-- `f_rempty` (41_fixed_slot_fifo.md R131). -/
def Fixed.rempty (f : Fixed) : Bool := f.head = f.tailR

/-- `v_wresv`. -/
def Variable.wresv (v : Variable) : Bool := v.resv

/-- `v_rempty`, that is `VFrontView() == NONE`. Where `VFrontView` raises a fault the spec gives the output no
value and the model gives `none`; no run without a fault gets there (42_variable_packet_fifo.md R173; log 14). -/
def Variable.rempty (v : Variable) : Option Bool :=
  match vFrontView v with
  | .ok none => some true
  | .ok (some _) => some false
  | .error _ => none

/-- The number of a fault code (60_exceptions.md R271). -/
def FaultCode.number : FaultCode → Nat
  | .fWriteNoResv => 1
  | .fPushNoResv => 2
  | .fPopEmpty => 3
  | .fReservedCmd => 4
  | .fReadUnwritten => 5
  | .vWriteNoResv => 6
  | .vWriteRange => 7
  | .vPushNoResv => 8
  | .vReadEmpty => 9
  | .vReadRange => 10
  | .vReadUnwritten => 11
  | .vPopEmpty => 12
  | .vHeaderInvalid => 13

/-- The `fault` output: valid bit and code (10_state.md R43); code 0 is used by no fault (60_exceptions.md R271)
and stands beside a valid bit of 0. -/
def faultOutput (fault : Option FaultRecord) : Bool × Nat :=
  match fault with
  | none => (false, 0)
  | some r => (true, r.code.number)

/-- The number of elements the consumer can see: `cdist(f_head, f_tail_r, N)` (41_fixed_slot_fifo.md R145). -/
def Fixed.visibleCount (f : Fixed) : Nat := cdist f.head f.tailR f.cfg.slots

/-- The number of elements the producer treats as occupied: `cdist(f_head_w, f_tail, N)` (R145). -/
def Fixed.occupiedCount (f : Fixed) : Nat := cdist f.headW f.tail f.cfg.slots

end Sys2Proof.Machine
end

