-- ==== Sys2Proof/Machine/FixedConsumer.lean ====
section
/-!
DEFINITION. The commands of the FC port (41_fixed_slot_fifo.md R137 to R140): the command part of each, and
the meaning, which is the command part inside a read-domain edge (43_gray_pointer_sync.md R251).
-/
namespace Sys2Proof.Machine

/-- Command part of FC.NOP (R137): none. -/
def fcNopPart (f : Fixed) : Except Stop (Fixed × FcResp) := .ok (f, fcSilent)

/-- FC.NOP (R137). -/
def execFcNop (s : State) : Host.Outcome State Fault Refusal :=
  fixedREdge s (fcWord 0) (fcNopPart s.fixed)

/-- Command part of FC.FRONT (R138). -/
def fcFrontPart (f : Fixed) : Except Stop (Fixed × FcResp) :=
  if f.head = f.tailR then .ok (f, fcNotReady)
  else
    match readCell f.cfg.slots f.mem f.head with
    | .error e => .error e
    | .ok none => .error (.record .fReadUnwritten)
    | .ok (some v) => .ok (f, fcShown f.head v)

/-- FC.FRONT (R138). -/
def execFcFront (s : State) : Host.Outcome State Fault Refusal :=
  fixedREdge s (fcWord 1) (fcFrontPart s.fixed)

/-- Command part of FC.POP (R139). -/
def fcPopPart (f : Fixed) : Except Stop (Fixed × FcResp) :=
  if f.head = f.tailR then .error (.record .fPopEmpty)
  else .ok ({ f with head := (f.head + 1) % f.cfg.slots }, fcSilent)

/-- FC.POP (R139). -/
def execFcPop (s : State) : Host.Outcome State Fault Refusal :=
  fixedREdge s (fcWord 2) (fcPopPart s.fixed)

/-- Command part of FC op 11 (R140): the reserved encoding raises F_RESERVED_CMD. -/
def fcReservedPart (_f : Fixed) : Except Stop (Fixed × FcResp) := .error (.record .fReservedCmd)

/-- FC op 11 (R140). -/
def execFcReserved (s : State) : Host.Outcome State Fault Refusal :=
  fixedREdge s (fcWord 3) (fcReservedPart s.fixed)

end Sys2Proof.Machine
end

