-- ==== Sys2Proof/Machine/FixedProducer.lean ====
section
/-!
DEFINITION. The commands of the FP port (41_fixed_slot_fifo.md R133 to R136): the command part of each, and
the meaning, which is the command part inside a write-domain edge (43_gray_pointer_sync.md R250).
-/
namespace Sys2Proof.Machine

/-- Command part of FP.NOP (R133): none. -/
def fpNopPart (f : Fixed) : Except Stop (Fixed × FpResp) := .ok (f, fpSilent)

/-- FP.NOP (R133). -/
def execFpNop (data : Nat) (s : State) : Host.Outcome State Fault Refusal :=
  fixedWEdge s (fpWord 0 data) (fpNopPart s.fixed)

/-- Command part of FP.ALLOC (R134). -/
def fpAllocPart (f : Fixed) : Except Stop (Fixed × FpResp) :=
  if (f.tail + 1) % f.cfg.slots ≠ f.headW then .ok ({ f with resv := true }, fpReserved f.tail)
  else .ok (f, fpNotReady)

/-- FP.ALLOC (R134). -/
def execFpAlloc (data : Nat) (s : State) : Host.Outcome State Fault Refusal :=
  fixedWEdge s (fpWord 1 data) (fpAllocPart s.fixed)

/-- Command part of FP.WRITE (R135). -/
def fpWritePart (f : Fixed) (data : Nat) : Except Stop (Fixed × FpResp) :=
  if f.resv = false then .error (.record .fWriteNoResv)
  else
    match writeCell f.cfg.slots f.mem f.tail data with
    | .error e => .error e
    | .ok m => .ok ({ f with mem := m }, fpSilent)

/-- FP.WRITE (R135). -/
def execFpWrite (data : Nat) (s : State) : Host.Outcome State Fault Refusal :=
  fixedWEdge s (fpWord 2 data) (fpWritePart s.fixed data)

/-- Command part of FP.PUSH (R136). -/
def fpPushPart (f : Fixed) : Except Stop (Fixed × FpResp) :=
  if f.resv = false then .error (.record .fPushNoResv)
  else .ok ({ f with tail := (f.tail + 1) % f.cfg.slots, resv := false }, fpSilent)

/-- FP.PUSH (R136). -/
def execFpPush (data : Nat) (s : State) : Host.Outcome State Fault Refusal :=
  fixedWEdge s (fpWord 3 data) (fpPushPart s.fixed)

end Sys2Proof.Machine
end

