-- ==== Sys2Proof/Machine/VarConsumer.lean ====
section
/-!
DEFINITION. The commands of the VC port (42_variable_packet_fifo.md R189 to R192): the command part of each,
and the meaning, which is the command part inside a read-domain edge (43_gray_pointer_sync.md R253).
-/
namespace Sys2Proof.Machine

/-- Command part of VC.NOP (R189): none. -/
def vcNopPart (v : Variable) : Except Stop (Variable × VcResp) := .ok (v, vcSilent)

/-- VC.NOP (R189). -/
def execVcNop (a : Nat) (s : State) : Host.Outcome State Fault Refusal :=
  varREdge s (vcWord 0 a) (vcNopPart s.var)

/-- Command part of VC.FRONT (R190). -/
def vcFrontPart (v : Variable) : Except Stop (Variable × VcResp) :=
  match vFrontView v with
  | .error e => .error e
  | .ok none => .ok (v, vcNotReady)
  | .ok (some m) => .ok (v, vcShown m)

/-- VC.FRONT (R190). -/
def execVcFront (a : Nat) (s : State) : Host.Outcome State Fault Refusal :=
  varREdge s (vcWord 1 a) (vcFrontPart s.var)

/-- Command part of VC.READ (R191; the order of the checks is 60_exceptions.md R273). -/
def vcReadPart (v : Variable) (off : Nat) : Except Stop (Variable × VcResp) :=
  match vFrontView v with
  | .error e => .error e
  | .ok none => .error (.record .vReadEmpty)
  | .ok (some m) =>
    if m.len ≤ off then .error (.record .vReadRange)
    else
      match readCell v.cfg.capacity v.mem (payloadAddr m.off off) with
      | .error e => .error e
      | .ok none => .error (.record .vReadUnwritten)
      | .ok (some b) => .ok (v, vcByte b)

/-- VC.READ (R191). -/
def execVcRead (off : Nat) (s : State) : Host.Outcome State Fault Refusal :=
  varREdge s (vcWord 2 off) (vcReadPart s.var off)

/-- Command part of VC.POP (R192). -/
def vcPopPart (v : Variable) : Except Stop (Variable × VcResp) :=
  match vFrontView v with
  | .error e => .error e
  | .ok none => .error (.record .vPopEmpty)
  | .ok (some m) => .ok ({ v with head := (m.off + m.total) % v.cfg.capacity }, vcSilent)

/-- VC.POP (R192). -/
def execVcPop (a : Nat) (s : State) : Host.Outcome State Fault Refusal :=
  varREdge s (vcWord 3 a) (vcPopPart s.var)

end Sys2Proof.Machine
end

