-- ==== Sys2Proof/Machine/VarProducer.lean ====
section
/-!
DEFINITION. The commands of the VP port (42_variable_packet_fifo.md R185 to R188): the command part of each,
and the meaning, which is the command part inside a write-domain edge (43_gray_pointer_sync.md R252).
-/
namespace Sys2Proof.Machine

/-- Command part of VP.NOP (R185): none. -/
def vpNopPart (v : Variable) : Except Stop (Variable × VpResp) := .ok (v, vpSilent)

/-- VP.NOP (R185). -/
def execVpNop (a : Nat) (b : Byte) (s : State) : Host.Outcome State Fault Refusal :=
  varWEdge s (vpWord s.var.cfg 0 a b) (vpNopPart s.var)

/-- The storage a successful VP.ALLOC leaves: the sentinel if it wraps, then the message header (R186). -/
def allocMem (v : Variable) (p : Placement) (len : Nat) : Except Stop (List Host.Cell) :=
  match (if p.wrap then writeSentinel v.cfg v.mem v.tail else .ok v.mem) with
  | .error e => .error e
  | .ok m => writeHeader v.cfg m p.off p.total len

/-- Command part of VP.ALLOC (R186). -/
def vpAllocPart (v : Variable) (len : Nat) : Except Stop (Variable × VpResp) :=
  match vPlace v len with
  | none => .ok (v, vpNotReady)
  | some p =>
    match allocMem v p len with
    | .error e => .error e
    | .ok m =>
      .ok ({ v with mem := m, resv := true, resvOff := p.off, resvTotal := p.total, resvLen := len },
        vpReserved p.off)

/-- VP.ALLOC (R186). -/
def execVpAlloc (len : Nat) (b : Byte) (s : State) : Host.Outcome State Fault Refusal :=
  varWEdge s (vpWord s.var.cfg 1 len b) (vpAllocPart s.var len)

/-- Command part of VP.WRITE (R187; the order of the checks is 60_exceptions.md R273). -/
def vpWritePart (v : Variable) (off : Nat) (b : Byte) : Except Stop (Variable × VpResp) :=
  if v.resv = false then .error (.record .vWriteNoResv)
  else if v.resvLen ≤ off then .error (.record .vWriteRange)
  else
    match writeCell v.cfg.capacity v.mem (payloadAddr v.resvOff off) b with
    | .error e => .error e
    | .ok m => .ok ({ v with mem := m }, vpSilent)

/-- VP.WRITE (R187). -/
def execVpWrite (off : Nat) (b : Byte) (s : State) : Host.Outcome State Fault Refusal :=
  varWEdge s (vpWord s.var.cfg 2 off b) (vpWritePart s.var off b)

/-- Command part of VP.PUSH (R188). -/
def vpPushPart (v : Variable) : Except Stop (Variable × VpResp) :=
  if v.resv = false then .error (.record .vPushNoResv)
  else .ok ({ v with tail := (v.resvOff + v.resvTotal) % v.cfg.capacity, resv := false }, vpSilent)

/-- VP.PUSH (R188). -/
def execVpPush (a : Nat) (b : Byte) (s : State) : Host.Outcome State Fault Refusal :=
  varWEdge s (vpWord s.var.cfg 3 a b) (vpPushPart s.var)

end Sys2Proof.Machine
end

