-- ==== Sys2Proof/Machine/Dispatch.lean ====
section
/-!
DEFINITION. One arm for each command of the command map (30_encoding.md R111).
-/
namespace Sys2Proof.Machine

def exec (i : Instr) (s : State) : Host.Outcome State Fault Refusal :=
  match i with
  | .fpNop data => Sys2Proof.Machine.execFpNop data s
  | .fpAlloc data => Sys2Proof.Machine.execFpAlloc data s
  | .fpWrite data => Sys2Proof.Machine.execFpWrite data s
  | .fpPush data => Sys2Proof.Machine.execFpPush data s
  | .fcNop => Sys2Proof.Machine.execFcNop s
  | .fcFront => Sys2Proof.Machine.execFcFront s
  | .fcPop => Sys2Proof.Machine.execFcPop s
  | .fcReserved => Sys2Proof.Machine.execFcReserved s
  | .vpNop a b => Sys2Proof.Machine.execVpNop a b s
  | .vpAlloc len b => Sys2Proof.Machine.execVpAlloc len b s
  | .vpWrite off b => Sys2Proof.Machine.execVpWrite off b s
  | .vpPush a b => Sys2Proof.Machine.execVpPush a b s
  | .vcNop a => Sys2Proof.Machine.execVcNop a s
  | .vcFront a => Sys2Proof.Machine.execVcFront a s
  | .vcRead off => Sys2Proof.Machine.execVcRead off s
  | .vcPop a => Sys2Proof.Machine.execVcPop a s

end Sys2Proof.Machine
end

