-- ==== Sys2Proof/Machine/Step.lean ====
section
/-!
DEFINITION. One step of the machine: the oldest event still to come happens (00_scope.md R8, R9).
-/
namespace Sys2Proof.Machine

/-- One transition. With nothing presented no clock has an edge and the machine stays as it is (log 5). -/
def step (s : State) : Host.Outcome State Fault Refusal :=
  match s.pending with
  | [] => .next s
  | .reset kind :: rest => resetStep { s with pending := rest } kind
  | .edge port w :: rest =>
    match Sys2Proof.decode s.fixed.cfg s.var.cfg port w with
    | .ok i => exec i { s with pending := rest }
    | .error (.wordTooWide p) => .refused (.wordTooWide p)

/-- The state with the `nbits` low bits of `w` presented at the next edge: at the port of the edge that comes
next, and at the FP port where none does (log 11). -/
def State.withFetchWord (s : State) (nbits w : Nat) : State :=
  { s with pending := presentWord s.pending (w % 2 ^ nbits) }

end Sys2Proof.Machine
end

