-- ==== Sys2Proof/Safety.lean ====
section
/-!
DEFINITION. What the spec says of every reachable state, as predicates claims are stated with: register
widths, the Gray registers, the chain of pointers around the ring, the reservation, the unread region, the
queue a FIFO holds, a settled FIFO, commands one after the other, and infinite fair runs (log 17).
-/
namespace Sys2Proof.Machine

/-- The sum of the successive `cdist(·,·,M)` along a chain (43_gray_pointer_sync.md R247). -/
def chainLength (m : Nat) : List Nat → Nat
  | [] => 0
  | [_] => 0
  | a :: b :: rest => cdist a b m + chainLength m (b :: rest)

/-! ### Fixed-slot instance -/

/-- Every register fits its width and storage is canonical (10_state.md R32 to R34, R49, R50). -/
abbrev Fixed.Sized (f : Fixed) : Prop :=
  f.tail < f.cfg.slots ∧ f.wpub < f.cfg.slots ∧ f.wgray < f.cfg.slots ∧
  f.head < f.cfg.slots ∧ f.rpub < f.cfg.slots ∧ f.rgray < f.cfg.slots ∧
  f.rsync.length = f.cfg.stages ∧ (∀ x ∈ f.rsync, x < f.cfg.slots) ∧
  f.wsync.length = f.cfg.stages ∧ (∀ x ∈ f.wsync, x < f.cfg.slots) ∧
  Store.wf f.mem ∧ Store.within f.cfg.slots f.mem ∧ (∀ c ∈ f.mem, c.2 < 2 ^ f.cfg.fW)

/-- Each Gray register holds the Gray code of its published pointer (10_state.md R35). -/
abbrev Fixed.GrayAgrees (f : Fixed) : Prop :=
  f.wgray = bin2gray f.wpub ∧ f.rgray = bin2gray f.rpub

/-- The decoded values in the order of the fixed chain invariant (43_gray_pointer_sync.md R247). -/
def Fixed.chain (f : Fixed) : List Nat :=
  f.rsync.reverse.map (gray2bin f.cfg.fAw) ++ [f.rpub, f.head] ++
  f.wsync.reverse.map (gray2bin f.cfg.fAw) ++ [f.wpub, f.tail]

/-- The fixed chain invariant (R247): the chain goes around at most once, and its length is at most `N - 1`. -/
abbrev Fixed.ChainOk (f : Fixed) : Prop :=
  chainLength f.cfg.slots f.chain = cdist f.headW f.tail f.cfg.slots ∧
  cdist f.headW f.tail f.cfg.slots ≤ f.cfg.slots - 1

/-- While a reservation is held there is room for its slot (the step of R247's proof for FP.PUSH). -/
abbrev Fixed.ResvOk (f : Fixed) : Prop :=
  f.resv = true → cdist f.headW f.tail f.cfg.slots + 1 ≤ f.cfg.slots - 1

/-- What holds in every reachable state of a fixed-slot instance. -/
abbrev Fixed.Inv (f : Fixed) : Prop :=
  f.Sized ∧ f.GrayAgrees ∧ f.ChainOk ∧ f.ResvOk

/-- A published pointer is its pointer or the position before it (43_gray_pointer_sync.md R245). -/
abbrev Fixed.PublishedNear (f : Fixed) : Prop :=
  (f.wpub = f.tail ∨ (f.wpub + 1) % f.cfg.slots = f.tail) ∧
  (f.rpub = f.head ∨ (f.rpub + 1) % f.cfg.slots = f.head)

/-- The elements pushed and not yet popped, oldest first: the contents of the slots `[f_head, f_tail)`
(41_fixed_slot_fifo.md R130, R143); an element is `⊥` if its slot was pushed unwritten. -/
def Fixed.queue (f : Fixed) : List (Option Nat) :=
  (List.range (cdist f.head f.tail f.cfg.slots)).map fun k => storeRead f.mem ((f.head + k) % f.cfg.slots)

/-- A settled fixed FIFO (43_gray_pointer_sync.md R258). -/
abbrev Fixed.Settled (f : Fixed) : Prop :=
  f.wpub = f.tail ∧ f.rpub = f.head ∧ (∀ x ∈ f.wsync, x = f.wgray) ∧ (∀ x ∈ f.rsync, x = f.rgray)

/-- The read domain's registers are the same (10_state.md R33). -/
abbrev Fixed.SameReadSide (f g : Fixed) : Prop :=
  g.head = f.head ∧ g.rpub = f.rpub ∧ g.rgray = f.rgray ∧ g.wsync = f.wsync

/-- The write domain's registers are the same (10_state.md R32). -/
abbrev Fixed.SameWriteSide (f g : Fixed) : Prop :=
  g.tail = f.tail ∧ g.resv = f.resv ∧ g.wpub = f.wpub ∧ g.wgray = f.wgray ∧ g.rsync = f.rsync

/-- What every write-domain edge that is taken and does not fault does beside its command (R234, R239, R250):
it publishes one step toward the pre-edge `f_tail`, shifts the synchroniser, and changes no register of the
read domain, no parameter and no fault record. -/
abbrev Fixed.WriteEdge (f g : Fixed) : Prop :=
  g.cfg = f.cfg ∧ g.fault = f.fault ∧ f.SameReadSide g ∧
  g.wpub = publishStep f.wpub f.tail f.cfg.slots ∧
  g.wgray = bin2gray (publishStep f.wpub f.tail f.cfg.slots) ∧
  g.rsync = shiftIn f.cfg.stages f.rgray f.rsync

/-- What every read-domain edge that is taken and does not fault does beside its command (R235, R239, R251). -/
abbrev Fixed.ReadEdge (f g : Fixed) : Prop :=
  g.cfg = f.cfg ∧ g.fault = f.fault ∧ f.SameWriteSide g ∧
  g.rpub = publishStep f.rpub f.head f.cfg.slots ∧
  g.rgray = bin2gray (publishStep f.rpub f.head f.cfg.slots) ∧
  g.wsync = shiftIn f.cfg.stages f.wgray f.wsync

/-! ### Variable-length instance -/

/-- Every register fits its width and storage is canonical (10_state.md R37 to R39, R49, R50). -/
abbrev Variable.Sized (v : Variable) : Prop :=
  v.tail < v.cfg.capacity ∧ v.resvOff < v.cfg.capacity ∧ v.resvTotal < v.cfg.capacity ∧
  v.resvLen < v.cfg.capacity ∧ v.wpub < v.cfg.blocks ∧ v.wgray < v.cfg.blocks ∧
  v.head < v.cfg.capacity ∧ v.rpub < v.cfg.blocks ∧ v.rgray < v.cfg.blocks ∧
  v.rsync.length = v.cfg.stages ∧ (∀ x ∈ v.rsync, x < v.cfg.blocks) ∧
  v.wsync.length = v.cfg.stages ∧ (∀ x ∈ v.wsync, x < v.cfg.blocks) ∧
  Store.wf v.mem ∧ Store.within v.cfg.capacity v.mem

/-- Offsets are block-aligned, and a held reservation is a placed message (10_state.md R49). -/
abbrev Variable.Aligned (v : Variable) : Prop :=
  v.tail % v.cfg.block = 0 ∧ v.head % v.cfg.block = 0 ∧
  (v.resv = true →
    v.resvOff % v.cfg.block = 0 ∧ v.resvTotal % v.cfg.block = 0 ∧ v.cfg.block ≤ v.resvTotal ∧
    v.resvTotal ≤ v.cfg.capacity - v.cfg.block ∧ v.resvOff + v.resvTotal ≤ v.cfg.capacity)

/-- Each Gray register holds the Gray code of its published pointer (10_state.md R35). -/
abbrev Variable.GrayAgrees (v : Variable) : Prop :=
  v.wgray = bin2gray v.wpub ∧ v.rgray = bin2gray v.rpub

/-- The byte offset a Gray value of a block pointer stands for (10_state.md R40). -/
def Variable.offsetOf (v : Variable) (g : Nat) : Nat := gray2bin v.cfg.ptrWidth g * v.cfg.block

/-- The decoded values in the order of the variable chain invariant (43_gray_pointer_sync.md R248). -/
def Variable.chain (v : Variable) : List Nat :=
  v.rsync.reverse.map v.offsetOf ++ [v.rpub * v.cfg.block, v.head] ++
  v.wsync.reverse.map v.offsetOf ++ [v.wpub * v.cfg.block, v.tail]

/-- The variable chain invariant's chain (R248), of length at most `C - B`. -/
abbrev Variable.ChainOk (v : Variable) : Prop :=
  chainLength v.cfg.capacity v.chain = cdist v.headW v.tail v.cfg.capacity ∧
  cdist v.headW v.tail v.cfg.capacity ≤ v.cfg.capacity - v.cfg.block

/-- The header at an offset is a real message's (42_variable_packet_fifo.md R173). -/
def messageAt (c : VarConfig) (m : List Host.Cell) (o total len : Nat) : Bool :=
  match hdrDecode c m o with
  | .ok (.message t l) => t = total ∧ l = len
  | _ => false

/-- The header at an offset is a wrap sentinel (R172, R173). -/
def sentinelAt (c : VarConfig) (m : List Host.Cell) (o : Nat) : Bool :=
  match hdrDecode c m o with
  | .ok .sentinel => true
  | _ => false

/-- The bytes the reservation's push moves `v_tail` past: its message, and the skipped region when it wrapped. -/
def Variable.resvExtent (v : Variable) : Nat :=
  if v.resvOff = v.tail then v.resvTotal else (v.cfg.capacity - v.tail) + v.resvTotal

/-- While a reservation is held its header is in storage, it starts at `v_tail` or behind a sentinel there at
offset 0, and its extent lies in the region the producer sees as free, one block short of it (R248). -/
abbrev Variable.ResvOk (v : Variable) : Prop :=
  v.resv = true →
    messageAt v.cfg v.mem v.resvOff v.resvTotal v.resvLen = true ∧
    (v.resvOff = v.tail ∨ (v.resvOff = 0 ∧ sentinelAt v.cfg v.mem v.tail = true)) ∧
    cdist v.headW v.tail v.cfg.capacity + v.resvExtent ≤ v.cfg.capacity - v.cfg.block

/-- The messages of the `d` bytes from `h` on, read as an exact sequence of segments: a message, or a skip to
offset 0 with the message there (R248). `none` if they are no such sequence. -/
def segments (c : VarConfig) (m : List Host.Cell) : Nat → Nat → Nat → Option (List Visible)
  | _, _, 0 => some []
  | 0, _, _ + 1 => none
  | fuel + 1, h, d + 1 =>
    match hdrDecode c m h with
    | .ok (.message total len) =>
      if d + 1 < total then none
      else (segments c m fuel ((h + total) % c.capacity) (d + 1 - total)).map
        (Visible.mk h total len :: ·)
    | .ok .sentinel =>
      match hdrDecode c m 0 with
      | .ok (.message total len) =>
        if d + 1 < c.capacity - h + total then none
        else (segments c m fuel (total % c.capacity) (d + 1 - (c.capacity - h + total))).map
          (Visible.mk 0 total len :: ·)
      | _ => none
    | .error _ => none

/-- The unread region `[v_head, v_tail)` as segments; no region holds more than `NB` of them (42 R176, 43 R248). -/
def Variable.unread (v : Variable) : Option (List Visible) :=
  segments v.cfg v.mem v.cfg.blocks v.head (cdist v.head v.tail v.cfg.capacity)

/-- What holds in every reachable state of a variable-length instance. -/
abbrev Variable.Inv (v : Variable) : Prop :=
  v.Sized ∧ v.Aligned ∧ v.GrayAgrees ∧ v.ChainOk ∧ v.ResvOk ∧ v.unread.isSome = true

/-- The payload of a message, byte by byte, `⊥` where a byte was never written. -/
def payloadOf (m : List Host.Cell) (p len : Nat) : List (Option Byte) :=
  (List.range len).map fun k => storeRead m (payloadAddr p k)

/-- The payloads of the messages pushed and not yet popped, oldest first (42_variable_packet_fifo.md R176, R195). -/
def Variable.queue (v : Variable) : List (List (Option Byte)) :=
  (v.unread.getD []).map fun x => payloadOf v.mem x.off x.len

/-- A settled variable FIFO (43_gray_pointer_sync.md R258). -/
abbrev Variable.Settled (v : Variable) : Prop :=
  v.wpub * v.cfg.block = v.tail ∧ v.rpub * v.cfg.block = v.head ∧
  (∀ x ∈ v.wsync, x = v.wgray) ∧ (∀ x ∈ v.rsync, x = v.rgray)

/-- The read domain's registers are the same (10_state.md R38). -/
abbrev Variable.SameReadSide (v w : Variable) : Prop :=
  w.head = v.head ∧ w.rpub = v.rpub ∧ w.rgray = v.rgray ∧ w.wsync = v.wsync

/-- The reservation's registers are the same (10_state.md R37). -/
abbrev Variable.SameReservation (v w : Variable) : Prop :=
  w.resv = v.resv ∧ w.resvOff = v.resvOff ∧ w.resvTotal = v.resvTotal ∧ w.resvLen = v.resvLen

/-- The write domain's registers are the same (10_state.md R37). -/
abbrev Variable.SameWriteSide (v w : Variable) : Prop :=
  w.tail = v.tail ∧ v.SameReservation w ∧ w.wpub = v.wpub ∧ w.wgray = v.wgray ∧ w.rsync = v.rsync

/-- What every write-domain edge that is taken and does not fault does beside its command (R236, R239, R252). -/
abbrev Variable.WriteEdge (v w : Variable) : Prop :=
  w.cfg = v.cfg ∧ w.fault = v.fault ∧ v.SameReadSide w ∧
  w.wpub = publishStep v.wpub (v.tail / v.cfg.block) v.cfg.blocks ∧
  w.wgray = bin2gray (publishStep v.wpub (v.tail / v.cfg.block) v.cfg.blocks) ∧
  w.rsync = shiftIn v.cfg.stages v.rgray v.rsync

/-- What every read-domain edge that is taken and does not fault does beside its command (R237, R239, R253). -/
abbrev Variable.ReadEdge (v w : Variable) : Prop :=
  w.cfg = v.cfg ∧ w.fault = v.fault ∧ v.SameWriteSide w ∧
  w.rpub = publishStep v.rpub (v.head / v.cfg.block) v.cfg.blocks ∧
  w.rgray = bin2gray (publishStep v.rpub (v.head / v.cfg.block) v.cfg.blocks) ∧
  w.wsync = shiftIn v.cfg.stages v.wgray v.wsync

/-! ### Storage as a reader sees it -/

/-- Every element of storage reads as before. -/
abbrev SameStore {α : Type} (m n : Store α) : Prop := ∀ a, storeRead n a = storeRead m a

/-- Byte `k` (0 to 7) of a header with the given TOTAL and INFO words, little-endian
(20_memory.md R70, 42_variable_packet_fifo.md R170). -/
def headerByte (total info k : Nat) : Byte :=
  if k < 4 then BitVec.ofNat 8 (total / 2 ^ (8 * k)) else BitVec.ofNat 8 (info / 2 ^ (8 * (k - 4)))

/-- What a VP.ALLOC that finds no room leaves: `ok = 0` and no state change of its own
(42_variable_packet_fifo.md R186). -/
abbrev State.AllocRefused (s t : State) : Prop :=
  t.fixed = s.fixed ∧ t.pending = s.pending ∧ t.resp = .vp { ok := some false, hoff := none } ∧
  s.var.WriteEdge t.var ∧ t.var.tail = s.var.tail ∧ s.var.SameReservation t.var ∧ SameStore s.var.mem t.var.mem

/-- What a VP.ALLOC that places a message at `off` leaves: the eight header bytes there, those of the sentinel at
`v_tail` if it wraps, the reservation, `ok = 1` and the offset; every other byte of storage as before
(42_variable_packet_fifo.md R186). -/
abbrev State.AllocPlaced (s t : State) (off total len : Nat) (wrap : Bool) : Prop :=
  t.fixed = s.fixed ∧ t.pending = s.pending ∧ t.resp = .vp { ok := some true, hoff := some off } ∧
  s.var.WriteEdge t.var ∧ t.var.tail = s.var.tail ∧ t.var.resv = true ∧ t.var.resvOff = off ∧
  t.var.resvTotal = total ∧ t.var.resvLen = len ∧
  ∀ a, storeRead t.var.mem a =
    if off ≤ a ∧ a < off + 8 then some (headerByte total len (a - off))
    else if wrap = true ∧ s.var.tail ≤ a ∧ a < s.var.tail + 8 then
      some (headerByte s.var.cfg.block 0x80000000 (a - s.var.tail))
    else storeRead s.var.mem a

/-! ### Faults -/

/-- The fault codes a command can raise (60_exceptions.md R271). -/
def raisedBy : Instr → List FaultCode
  | .fpNop _ => []
  | .fpAlloc _ => []
  | .fpWrite _ => [.fWriteNoResv]
  | .fpPush _ => [.fPushNoResv]
  | .fcNop => []
  | .fcFront => [.fReadUnwritten]
  | .fcPop => [.fPopEmpty]
  | .fcReserved => [.fReservedCmd]
  | .vpNop _ _ => []
  | .vpAlloc _ _ => []
  | .vpWrite _ _ => [.vWriteNoResv, .vWriteRange]
  | .vpPush _ _ => [.vPushNoResv]
  | .vcNop _ => []
  | .vcFront _ => [.vHeaderInvalid]
  | .vcRead _ => [.vHeaderInvalid, .vReadEmpty, .vReadRange, .vReadUnwritten]
  | .vcPop _ => [.vHeaderInvalid, .vPopEmpty]

/-- The fixed-slot instance faults with `code` at the command `i`: the record says so with the full command
word, nothing else of the machine changes, and no response is driven (60_exceptions.md R272, R274). -/
def State.fixedFaulted (s : State) (code : FaultCode) (i : Instr) : State :=
  { s with
    fixed := { s.fixed with
      fault := some { code := code, domain := i.port.domain, cmd := Sys2Proof.encode s.var.cfg i } }
    resp := .none }

/-- The variable-length instance faults with `code` at the command `i` (60_exceptions.md R272, R274). -/
def State.varFaulted (s : State) (code : FaultCode) (i : Instr) : State :=
  { s with
    var := { s.var with
      fault := some { code := code, domain := i.port.domain, cmd := Sys2Proof.encode s.var.cfg i } }
    resp := .none }

/-! ### The machine -/

/-- What holds in every reachable state. -/
abbrev State.Inv (s : State) : Prop := s.fixed.Inv ∧ s.var.Inv

/-- The other instance and the events still to come are the same, and the response is `r`: what a command of a
fixed port leaves of the rest of the machine. -/
abbrev State.FixedOnly (s t : State) (r : Response) : Prop :=
  t.var = s.var ∧ t.pending = s.pending ∧ t.resp = r

/-- What a command of a variable port leaves of the rest of the machine. -/
abbrev State.VarOnly (s t : State) (r : Response) : Prop :=
  t.fixed = s.fixed ∧ t.pending = s.pending ∧ t.resp = r

/-- FP.PUSH, whatever its ignored bits. -/
def isFpPush : Instr → Bool
  | .fpPush _ => true
  | _ => false

/-- Commands one after the other, stopping at the first stop. -/
def execAll : List Instr → State → Host.Outcome State Fault Refusal
  | [], s => .next s
  | i :: rest, s =>
    match exec i s with
    | .next t => execAll rest t
    | .fault r => .fault r
    | .refused r => .refused r

/-! ### Infinite runs (00_scope.md R8, R13; 43_gray_pointer_sync.md R255, R257) -/

/-- An infinite run: at its step `n` the clocks and callers present the event `env n`, any one, and the machine
goes from `st n` to `st (n + 1)` (log 17). Every interleaving of edges and resets is such a run. -/
abbrev InfiniteRun (env : Nat → Event) (st : Nat → State) : Prop :=
  ∀ n, step { st n with pending := [env n] } = .next (st (n + 1))

/-- Weak fairness: the clock of each port of the instance has infinitely many edges (00_scope.md R13). -/
abbrev WeaklyFair (kind : Kind) (env : Nat → Event) : Prop :=
  ∀ (port : Port), port.kind = kind → ∀ n, ∃ m w, n ≤ m ∧ env m = .edge port w

/-- The positions a pointer has moved forward over the first `n` steps of a run, laps included. -/
def travelled (m : Nat) (p : Nat → Nat) : Nat → Nat
  | 0 => 0
  | n + 1 => travelled m p n + cdist (p n) (p (n + 1)) m

end Sys2Proof.Machine
end

