-- ==== Sys2Proof/Certificates/Slice0/Obligations.lean ====
section
/-!
DEFINITION. The statements for the provers. Every statement quantifies over the configuration (through the
state or directly), so it holds for every legal choice of the parameters (00_scope.md R11).
-/
open Sys2Proof
open Sys2Proof.Machine

/-! ### Encoding -/

/-- Decoding, at its own port, the word of a well-formed command gives that command (30_encoding.md R101 to
R104, R110, R111). -/
def Obligations.DecodeOfEncodeIsTheCommand : Prop :=
  ∀ (fc : FixedConfig) (vc : VarConfig) (i : Instr),
    i.WellFormed fc vc → decode fc vc i.port (encode vc i) = .ok i

/-- What a word decodes to is a well-formed command of that port, and its word is the word decoded: no bit of
a command word is dropped (R101 to R104). That the instruction carries the fields its command ignores, so that
encoding gives back the whole word, is the model's own choice (log 9). -/
def Obligations.EncodeOfDecodeIsTheWord : Prop :=
  ∀ (fc : FixedConfig) (vc : VarConfig) (port : Port) (w : Nat) (i : Instr),
    decode fc vc port w = .ok i → encode vc i = w ∧ i.WellFormed fc vc ∧ i.port = port

/-- Every word of a port's width decodes, to the command its `op` field selects: no operand value makes a word
illegal. A number too wide for the port is rejected by name, which is the model's own (log 10). -/
def Obligations.EveryPortWordDecodesByItsOp : Prop :=
  ∀ (fc : FixedConfig) (vc : VarConfig) (port : Port) (w : Nat),
    (w < 2 ^ portWidth fc vc port → ∃ i, decode fc vc port w = .ok i ∧ i.op = w % 4) ∧
    (2 ^ portWidth fc vc port ≤ w → decode fc vc port w = .error (.wordTooWide port))

/-- Words of 95_test_vectors.md V-E-1 and V-E-2, two or more of each port, decode as the vectors say
(F_W = 8, L = 9). -/
def Obligations.ExampleWordsDecode : Prop :=
  decode fixedExample varExample .fp 0x046 = .ok (.fpWrite 0x11) ∧
  decode fixedExample varExample .fp 0x3FF = .ok (.fpPush 0xFF) ∧
  decode fixedExample varExample .fc 0x2 = .ok .fcPop ∧
  decode fixedExample varExample .fc 0x3 = .ok .fcReserved ∧
  decode fixedExample varExample .vp 0x2D18E = .ok (.vpWrite 99 0x5A) ∧
  decode fixedExample varExample .vp 0x007FD = .ok (.vpAlloc 511 0) ∧
  decode fixedExample varExample .vc 0x18E = .ok (.vcRead 99) ∧
  decode fixedExample varExample .vc 0x7FF = .ok (.vcPop 511)

/-! ### Steps and Reset -/

/-- When the oldest event is an edge whose word decodes to `i`, the step is `exec` of `i` on the state with
that event taken off the list; nothing else is added around `exec`. The list of events is the model's own
(log 4). -/
def Obligations.StepRunsTheDecodedCommand : Prop :=
  ∀ (s : State) (port : Port) (w : Nat) (rest : List Event) (i : Instr),
    s.pending = .edge port w :: rest → decode s.fixed.cfg s.var.cfg port w = .ok i →
    i.WellFormed s.fixed.cfg s.var.cfg ∧ step s = exec i { s with pending := rest }

/-- `Reset` of an instance is taken in every state, a faulted one too: every register of both domains is 0,
no reservation and no fault is held, the FIFO is empty and settled, storage and parameters are unchanged, no
response is driven, and the other instance is untouched (70_reset_and_hazards.md R300 to R303; 10_state.md
R48). That the reset input is an entry of the list of events is the model's own (log 4). -/
def Obligations.ResetClearsRegistersAndKeepsStorage : Prop :=
  ∀ (s : State) (rest : List Event),
    (s.pending = .reset .fixedSlot :: rest →
      ∃ t, step s = .next t ∧
        t.fixed.tail = 0 ∧ t.fixed.resv = false ∧ t.fixed.wpub = 0 ∧ t.fixed.wgray = 0 ∧
        t.fixed.rsync = List.replicate s.fixed.cfg.stages 0 ∧
        t.fixed.head = 0 ∧ t.fixed.rpub = 0 ∧ t.fixed.rgray = 0 ∧
        t.fixed.wsync = List.replicate s.fixed.cfg.stages 0 ∧
        t.fixed.fault = none ∧ t.fixed.cfg = s.fixed.cfg ∧ SameStore s.fixed.mem t.fixed.mem ∧
        t.fixed.Settled ∧ t.fixed.rempty = true ∧
        t.var = s.var ∧ t.resp = .none ∧ t.pending = rest) ∧
    (s.pending = .reset .variableLength :: rest →
      ∃ t, step s = .next t ∧
        t.var.tail = 0 ∧ t.var.resv = false ∧ t.var.resvOff = 0 ∧ t.var.resvTotal = 0 ∧
        t.var.resvLen = 0 ∧ t.var.wpub = 0 ∧ t.var.wgray = 0 ∧
        t.var.rsync = List.replicate s.var.cfg.stages 0 ∧
        t.var.head = 0 ∧ t.var.rpub = 0 ∧ t.var.rgray = 0 ∧
        t.var.wsync = List.replicate s.var.cfg.stages 0 ∧
        t.var.fault = none ∧ t.var.cfg = s.var.cfg ∧ SameStore s.var.mem t.var.mem ∧
        t.var.Settled ∧ t.var.rempty = some true ∧
        t.fixed = s.fixed ∧ t.resp = .none ∧ t.pending = rest)

/-- After `Reset`, whatever storage holds: the first FP.ALLOC returns slot 0 and FC.FRONT returns `ok = 0`;
the first VP.ALLOC returns `hoff = 0` for every `len` with `roundup(8 + len, B) ≤ C - B`, and VC.FRONT
returns `ok = 0` (70_reset_and_hazards.md R307). -/
def Obligations.FirstResponsesAfterReset : Prop :=
  ∀ (f : Fixed) (v : Variable) (pending : List Event) (r : Response) (s : State),
    s = { fixed := f.doReset, var := v.doReset, pending := pending, resp := r } →
    (∀ data, ∃ t, exec (.fpAlloc data) s = .next t ∧
      t.resp = .fp { ok := some true, slot := some 0 }) ∧
    (∃ t, exec .fcFront s = .next t ∧ t.resp = .fc { ok := some false, slot := none, data := none }) ∧
    (∀ len b, roundup (8 + len) v.cfg.block ≤ v.cfg.capacity - v.cfg.block →
      ∃ t, exec (.vpAlloc len b) s = .next t ∧ t.resp = .vp { ok := some true, hoff := some 0 }) ∧
    (∀ a, ∃ t, exec (.vcFront a) s = .next t ∧
      t.resp = .vc { ok := some false, hoff := none, total := none, len := none, byte := none })

/-! ### Commands of the fixed-slot FIFO -/

/-- NOP on each of the four ports changes nothing but the publish step and the synchroniser shift of its
domain, and its response carries no field (41 R133, R137; 42 R185, R189). -/
def Obligations.IdleCommandsOnlyPublishAndShift : Prop :=
  ∀ s : State,
    (s.fixed.fault = none →
      (∀ data, ∃ t, exec (.fpNop data) s = .next t ∧
        s.FixedOnly t (.fp { ok := none, slot := none }) ∧ s.fixed.WriteEdge t.fixed ∧
        t.fixed.tail = s.fixed.tail ∧ t.fixed.resv = s.fixed.resv ∧
        SameStore s.fixed.mem t.fixed.mem) ∧
      (∃ t, exec .fcNop s = .next t ∧
        s.FixedOnly t (.fc { ok := none, slot := none, data := none }) ∧ s.fixed.ReadEdge t.fixed ∧
        t.fixed.head = s.fixed.head ∧ SameStore s.fixed.mem t.fixed.mem)) ∧
    (s.var.fault = none →
      (∀ a b, ∃ t, exec (.vpNop a b) s = .next t ∧
        s.VarOnly t (.vp { ok := none, hoff := none }) ∧ s.var.WriteEdge t.var ∧
        t.var.tail = s.var.tail ∧ s.var.SameReservation t.var ∧ SameStore s.var.mem t.var.mem) ∧
      (∀ a, ∃ t, exec (.vcNop a) s = .next t ∧
        s.VarOnly t (.vc { ok := none, hoff := none, total := none, len := none, byte := none }) ∧
        s.var.ReadEdge t.var ∧ t.var.head = s.var.head ∧ SameStore s.var.mem t.var.mem))

/-- FP.ALLOC: when not full it reserves slot `f_tail` and returns it; when full it returns `ok = 0` and
changes no state of its own. Neither case moves an index or touches storage (41_fixed_slot_fifo.md R134). -/
def Obligations.FpAllocReservesTheTailSlotOrReportsFull : Prop :=
  ∀ (data : Nat) (s : State), s.fixed.fault = none →
    ∃ t, exec (.fpAlloc data) s = .next t ∧
      s.fixed.WriteEdge t.fixed ∧ t.fixed.tail = s.fixed.tail ∧ SameStore s.fixed.mem t.fixed.mem ∧
      (if (s.fixed.tail + 1) % 2 ^ s.fixed.cfg.fAw ≠ s.fixed.headW then
        t.fixed.resv = true ∧ s.FixedOnly t (.fp { ok := some true, slot := some s.fixed.tail })
      else
        t.fixed.resv = s.fixed.resv ∧ s.FixedOnly t (.fp { ok := some false, slot := none }))

/-- FP.ALLOC while a reservation is held returns the same slot and changes no index, storage or reservation
(41_fixed_slot_fifo.md R142, R134). -/
def Obligations.FpAllocAgainReturnsTheSameSlot : Prop :=
  ∀ (data : Nat) (s : State), s.fixed.Inv → s.fixed.fault = none → s.fixed.resv = true →
    ∃ t, exec (.fpAlloc data) s = .next t ∧
      s.FixedOnly t (.fp { ok := some true, slot := some s.fixed.tail }) ∧
      s.fixed.WriteEdge t.fixed ∧ t.fixed.tail = s.fixed.tail ∧ t.fixed.resv = true ∧
      SameStore s.fixed.mem t.fixed.mem

/-- FP.WRITE d: with a reservation, slot `f_tail` holds `d` and every other slot is as before; without one it
records fault 1 with its full word and changes nothing else (41_fixed_slot_fifo.md R135). -/
def Obligations.FpWriteStoresIntoTheReservedSlot : Prop :=
  ∀ (data : Nat) (s : State), s.fixed.fault = none →
    (s.fixed.resv = true → s.fixed.tail < s.fixed.cfg.slots →
      ∃ t, exec (.fpWrite data) s = .next t ∧ s.FixedOnly t (.fp { ok := none, slot := none }) ∧
        s.fixed.WriteEdge t.fixed ∧ t.fixed.tail = s.fixed.tail ∧ t.fixed.resv = s.fixed.resv ∧
        ∀ a, storeRead t.fixed.mem a =
          if a = s.fixed.tail then some data else storeRead s.fixed.mem a) ∧
    (s.fixed.resv = false →
      exec (.fpWrite data) s = .next (s.fixedFaulted .fWriteNoResv (.fpWrite data)))

/-- FP.PUSH: with a reservation, `f_tail` advances by one modulo N and the reservation ends; without one it
records fault 2 and changes nothing else (41_fixed_slot_fifo.md R136). -/
def Obligations.FpPushAdvancesTheTail : Prop :=
  ∀ (data : Nat) (s : State), s.fixed.fault = none →
    (s.fixed.resv = true →
      ∃ t, exec (.fpPush data) s = .next t ∧ s.FixedOnly t (.fp { ok := none, slot := none }) ∧
        s.fixed.WriteEdge t.fixed ∧ t.fixed.tail = (s.fixed.tail + 1) % 2 ^ s.fixed.cfg.fAw ∧
        t.fixed.resv = false ∧ SameStore s.fixed.mem t.fixed.mem) ∧
    (s.fixed.resv = false →
      exec (.fpPush data) s = .next (s.fixedFaulted .fPushNoResv (.fpPush data)))

/-- FC.FRONT: empty, it returns `ok = 0`; otherwise it returns slot `f_head` with its content, and records
fault 5 if that slot was never written. No index moves and storage is not touched (41_fixed_slot_fifo.md R138). -/
def Obligations.FcFrontShowsTheHeadSlot : Prop :=
  ∀ s : State, s.fixed.fault = none →
    (s.fixed.head = s.fixed.tailR →
      ∃ t, exec .fcFront s = .next t ∧
        s.FixedOnly t (.fc { ok := some false, slot := none, data := none }) ∧
        s.fixed.ReadEdge t.fixed ∧ t.fixed.head = s.fixed.head ∧ SameStore s.fixed.mem t.fixed.mem) ∧
    (s.fixed.head ≠ s.fixed.tailR → s.fixed.head < s.fixed.cfg.slots →
      match storeRead s.fixed.mem s.fixed.head with
      | some v => ∃ t, exec .fcFront s = .next t ∧
          s.FixedOnly t (.fc { ok := some true, slot := some s.fixed.head, data := some v }) ∧
          s.fixed.ReadEdge t.fixed ∧ t.fixed.head = s.fixed.head ∧ SameStore s.fixed.mem t.fixed.mem
      | none => exec .fcFront s = .next (s.fixedFaulted .fReadUnwritten .fcFront))

/-- FC.POP: when not empty `f_head` advances by one modulo N; when empty it records fault 3 and changes
nothing else (41_fixed_slot_fifo.md R139). -/
def Obligations.FcPopAdvancesTheHead : Prop :=
  ∀ s : State, s.fixed.fault = none →
    (s.fixed.head ≠ s.fixed.tailR →
      ∃ t, exec .fcPop s = .next t ∧
        s.FixedOnly t (.fc { ok := none, slot := none, data := none }) ∧ s.fixed.ReadEdge t.fixed ∧
        t.fixed.head = (s.fixed.head + 1) % 2 ^ s.fixed.cfg.fAw ∧ SameStore s.fixed.mem t.fixed.mem) ∧
    (s.fixed.head = s.fixed.tailR → exec .fcPop s = .next (s.fixedFaulted .fPopEmpty .fcPop))

/-- FC op 11 always records F_RESERVED_CMD, and nothing else changes (41_fixed_slot_fifo.md R140). -/
def Obligations.FcReservedRecordsItsFault : Prop :=
  ∀ s : State, s.fixed.fault = none →
    exec .fcReserved s = .next (s.fixedFaulted .fReservedCmd .fcReserved)

/-! ### Commands of the variable-length FIFO -/

/-- VP.ALLOC by the tests of `VPlace`, with `tot = roundup(8 + len, B)`, `t = v_tail` and `h = v_head_w`: for
`t ≥ h` contiguous at `t` iff `t + tot < C`, or `t + tot = C` and `h ≠ 0`, else wrapped to 0 iff `tot < h`; for
`t < h` contiguous iff `t + tot < h`; and no room otherwise. No room is `ok = 0` and no state change of its own; a
placement writes the header there, and the sentinel at `v_tail` if it wraps, holds the reservation and returns the
offset. The sentinel's bytes are in storage in every reachable state (42_variable_packet_fifo.md R186, R177). -/
def Obligations.VpAllocPlacesAMessageOrReportsNoRoom : Prop :=
  (∀ (c : VarConfig) (t h len tot : Nat), tot = roundup (8 + len) c.block →
    vPlaceAt c t h len =
      if t ≥ h then
        if t + tot < c.capacity ∨ (t + tot = c.capacity ∧ h ≠ 0) then
          some { off := t, total := tot, wrap := false }
        else if tot < h then some { off := 0, total := tot, wrap := true }
        else none
      else if t + tot < h then some { off := t, total := tot, wrap := false }
      else none) ∧
  (∀ (len : Nat) (b : Byte) (s : State) (t h tot : Nat), s.var.fault = none →
    t = s.var.tail → h = s.var.headW → tot = roundup (8 + len) s.var.cfg.block →
    if t ≥ h then
      if t + tot < s.var.cfg.capacity ∨ (t + tot = s.var.cfg.capacity ∧ h ≠ 0) then
        ∃ u, exec (.vpAlloc len b) s = .next u ∧ s.AllocPlaced u t tot len false
      else if tot < h then
        t + 8 ≤ s.var.cfg.capacity → ∃ u, exec (.vpAlloc len b) s = .next u ∧ s.AllocPlaced u 0 tot len true
      else ∃ u, exec (.vpAlloc len b) s = .next u ∧ s.AllocRefused u
    else if t + tot < h then ∃ u, exec (.vpAlloc len b) s = .next u ∧ s.AllocPlaced u t tot len false
    else ∃ u, exec (.vpAlloc len b) s = .next u ∧ s.AllocRefused u)

/-- VP.WRITE off, b: with a reservation and `off` inside its payload, byte `v_resv_off + 8 + off` holds `b`
and every other byte is as before; without a reservation it records fault 6, and with `off` outside the
payload fault 7, checked in that order (42_variable_packet_fifo.md R187; 60_exceptions.md R273). -/
def Obligations.VpWriteStoresOnePayloadByte : Prop :=
  ∀ (off : Nat) (b : Byte) (s : State), s.var.fault = none →
    (s.var.resv = false →
      exec (.vpWrite off b) s = .next (s.varFaulted .vWriteNoResv (.vpWrite off b))) ∧
    (s.var.resv = true → s.var.resvLen ≤ off →
      exec (.vpWrite off b) s = .next (s.varFaulted .vWriteRange (.vpWrite off b))) ∧
    (s.var.resv = true → off < s.var.resvLen → s.var.resvOff + 8 + off < s.var.cfg.capacity →
      ∃ t, exec (.vpWrite off b) s = .next t ∧ s.VarOnly t (.vp { ok := none, hoff := none }) ∧
        s.var.WriteEdge t.var ∧ t.var.tail = s.var.tail ∧ s.var.SameReservation t.var ∧
        ∀ a, storeRead t.var.mem a =
          if a = s.var.resvOff + 8 + off then some b else storeRead s.var.mem a)

/-- VP.PUSH: with a reservation, `v_tail` becomes the end of the reserved message modulo C, the reservation
ends and its offset, TOTAL and length registers keep their values; without one it records fault 8
(42_variable_packet_fifo.md R188). -/
def Obligations.VpPushAdvancesTheTail : Prop :=
  ∀ (a : Nat) (b : Byte) (s : State), s.var.fault = none →
    (s.var.resv = true →
      ∃ t, exec (.vpPush a b) s = .next t ∧ s.VarOnly t (.vp { ok := none, hoff := none }) ∧
        s.var.WriteEdge t.var ∧
        t.var.tail = (s.var.resvOff + s.var.resvTotal) % 2 ^ s.var.cfg.l ∧ t.var.resv = false ∧
        t.var.resvOff = s.var.resvOff ∧ t.var.resvTotal = s.var.resvTotal ∧
        t.var.resvLen = s.var.resvLen ∧ SameStore s.var.mem t.var.mem) ∧
    (s.var.resv = false →
      exec (.vpPush a b) s = .next (s.varFaulted .vPushNoResv (.vpPush a b)))

/-- VC.FRONT returns what `VFrontView` gives and changes no state of its own; a header that does not decode
records fault 13 (42_variable_packet_fifo.md R190). -/
def Obligations.VcFrontShowsTheOldestMessage : Prop :=
  ∀ (a : Nat) (s : State), s.var.fault = none →
    (∀ view, vFrontView s.var = .ok view →
      ∃ t, exec (.vcFront a) s = .next t ∧ s.var.ReadEdge t.var ∧ t.var.head = s.var.head ∧
        SameStore s.var.mem t.var.mem ∧
        s.VarOnly t (.vc (match view with
          | none => { ok := some false, hoff := none, total := none, len := none, byte := none }
          | some m =>
            { ok := some true, hoff := some m.off, total := some m.total, len := some m.len,
              byte := none }))) ∧
    (vFrontView s.var = .error (.record .vHeaderInvalid) →
      exec (.vcFront a) s = .next (s.varFaulted .vHeaderInvalid (.vcFront a)))

/-- VC.READ off returns byte `p + 8 + off` of the visible message at `p` and changes no state of its own. It
records fault 13 for a bad header, else 9 with nothing visible, else 10 with `off` outside the payload, else
11 for a byte never written (42_variable_packet_fifo.md R191; 60_exceptions.md R273). -/
def Obligations.VcReadReturnsOnePayloadByte : Prop :=
  ∀ (off : Nat) (s : State), s.var.fault = none →
    (vFrontView s.var = .error (.record .vHeaderInvalid) →
      exec (.vcRead off) s = .next (s.varFaulted .vHeaderInvalid (.vcRead off))) ∧
    (vFrontView s.var = .ok none →
      exec (.vcRead off) s = .next (s.varFaulted .vReadEmpty (.vcRead off))) ∧
    (∀ m, vFrontView s.var = .ok (some m) →
      (m.len ≤ off → exec (.vcRead off) s = .next (s.varFaulted .vReadRange (.vcRead off))) ∧
      (off < m.len → m.off + 8 + off < s.var.cfg.capacity →
        match storeRead s.var.mem (m.off + 8 + off) with
        | none => exec (.vcRead off) s = .next (s.varFaulted .vReadUnwritten (.vcRead off))
        | some b => ∃ t, exec (.vcRead off) s = .next t ∧
            s.VarOnly t
              (.vc { ok := none, hoff := none, total := none, len := none, byte := some b }) ∧
            s.var.ReadEdge t.var ∧ t.var.head = s.var.head ∧ SameStore s.var.mem t.var.mem))

/-- VC.POP moves `v_head` to the end of the visible message modulo C, past a sentinel before it; it records
fault 13 for a bad header and fault 12 with nothing visible (42_variable_packet_fifo.md R192). -/
def Obligations.VcPopAdvancesTheHead : Prop :=
  ∀ (a : Nat) (s : State), s.var.fault = none →
    (vFrontView s.var = .error (.record .vHeaderInvalid) →
      exec (.vcPop a) s = .next (s.varFaulted .vHeaderInvalid (.vcPop a))) ∧
    (vFrontView s.var = .ok none →
      exec (.vcPop a) s = .next (s.varFaulted .vPopEmpty (.vcPop a))) ∧
    (∀ m, vFrontView s.var = .ok (some m) →
      ∃ t, exec (.vcPop a) s = .next t ∧
        s.VarOnly t (.vc { ok := none, hoff := none, total := none, len := none, byte := none }) ∧
        s.var.ReadEdge t.var ∧ t.var.head = (m.off + m.total) % 2 ^ s.var.cfg.l ∧
        SameStore s.var.mem t.var.mem)

/-! ### Rules about every command -/

/-- A faulted instance takes no further edge: at every command of its ports it stays as it is. That the edge
is taken off the list without a response is the model's own (log 6) (43 R254; 60 R275, R276). -/
def Obligations.FaultedInstanceStaysFrozen : Prop :=
  ∀ (i : Instr) (s : State),
    (i.port.kind = .fixedSlot → s.fixed.fault ≠ none → exec i s = .next { s with resp := .none }) ∧
    (i.port.kind = .variableLength → s.var.fault ≠ none → exec i s = .next { s with resp := .none })

/-- A command that changes a fault record writes one of its own codes with its domain and its full word, where
none stood, and changes nothing else of the machine (60_exceptions.md R272, R274). The codes have the numbers 1 to
13 of 60_exceptions.md R271, and the `fault` output shows the valid bit and the number of the code recorded
(10_state.md R43). -/
def Obligations.FaultsArePreciseAndOfTheirCommand : Prop :=
  (∀ (i : Instr) (s t : State), exec i s = .next t →
    (t.fixed.fault ≠ s.fixed.fault →
      s.fixed.fault = none ∧ i.port.kind = .fixedSlot ∧
      ∃ code ∈ raisedBy i, t = s.fixedFaulted code i ∧ faultOutput t.fixed.fault = (true, code.number)) ∧
    (t.var.fault ≠ s.var.fault →
      s.var.fault = none ∧ i.port.kind = .variableLength ∧
      ∃ code ∈ raisedBy i, t = s.varFaulted code i ∧ faultOutput t.var.fault = (true, code.number))) ∧
  faultOutput none = (false, 0) ∧
  FaultCode.fWriteNoResv.number = 1 ∧ FaultCode.fPushNoResv.number = 2 ∧ FaultCode.fPopEmpty.number = 3 ∧
  FaultCode.fReservedCmd.number = 4 ∧ FaultCode.fReadUnwritten.number = 5 ∧ FaultCode.vWriteNoResv.number = 6 ∧
  FaultCode.vWriteRange.number = 7 ∧ FaultCode.vPushNoResv.number = 8 ∧ FaultCode.vReadEmpty.number = 9 ∧
  FaultCode.vReadRange.number = 10 ∧ FaultCode.vReadUnwritten.number = 11 ∧ FaultCode.vPopEmpty.number = 12 ∧
  FaultCode.vHeaderInvalid.number = 13

/-- Each register has a single writer: a command of a producer port changes no register of a read domain, and
a command of a consumer port none of a write domain (10_state.md R47). -/
def Obligations.EachRegisterHasOneWriterDomain : Prop :=
  ∀ (i : Instr) (s t : State), exec i s = .next t →
    (i.port.domain = .write → s.fixed.SameReadSide t.fixed ∧ s.var.SameReadSide t.var) ∧
    (i.port.domain = .read → s.fixed.SameWriteSide t.fixed ∧ s.var.SameWriteSide t.var)

/-- Only FP.WRITE writes `f_mem`, and only VP.ALLOC and VP.WRITE write `v_mem` (10_state.md R34, R39). -/
def Obligations.StorageIsWrittenOnlyByItsCommands : Prop :=
  ∀ (i : Instr) (s t : State), exec i s = .next t →
    ((∀ data, i ≠ .fpWrite data) → t.fixed.mem = s.fixed.mem) ∧
    ((∀ len b, i ≠ .vpAlloc len b) → (∀ off b, i ≠ .vpWrite off b) → t.var.mem = s.var.mem)

/-- The two instances are independent: a command of one leaves the other as it is, and what it does depends on
its own instance alone (00_scope.md R3; 60_exceptions.md R284). -/
def Obligations.InstancesAreIndependent : Prop :=
  ∀ (i : Instr) (s s' t : State), exec i s = .next t →
    (i.port.kind = .fixedSlot → s'.fixed = s.fixed →
      t.var = s.var ∧ ∃ t', exec i s' = .next t' ∧ t'.fixed = t.fixed ∧ t'.resp = t.resp) ∧
    (i.port.kind = .variableLength → s'.var = s.var →
      t.fixed = s.fixed ∧ ∃ t', exec i s' = .next t' ∧ t'.var = t.var ∧ t'.resp = t.resp)

/-- Nothing but the Gray registers and the storage crosses between the domains: what a command does to its own
domain, to storage and in its response is the same in two states that agree on the parameters, its own
domain's registers, the other domain's Gray register, storage and the fault record (10_state.md R36, R40). -/
def Obligations.OnlyGrayRegistersAndStorageCross : Prop :=
  ∀ (i : Instr) (s s' t : State), exec i s = .next t →
    s'.fixed.cfg = s.fixed.cfg → s'.fixed.mem = s.fixed.mem → s'.fixed.fault = s.fixed.fault →
    s'.var.cfg = s.var.cfg → s'.var.mem = s.var.mem → s'.var.fault = s.var.fault →
    (i.port = .fp → s.fixed.SameWriteSide s'.fixed → s'.fixed.rgray = s.fixed.rgray →
      ∃ t', exec i s' = .next t' ∧ t.fixed.SameWriteSide t'.fixed ∧ t'.fixed.mem = t.fixed.mem ∧
        t'.fixed.fault = t.fixed.fault ∧ t'.resp = t.resp) ∧
    (i.port = .fc → s.fixed.SameReadSide s'.fixed → s'.fixed.wgray = s.fixed.wgray →
      ∃ t', exec i s' = .next t' ∧ t.fixed.SameReadSide t'.fixed ∧
        t'.fixed.fault = t.fixed.fault ∧ t'.resp = t.resp) ∧
    (i.port = .vp → s.var.SameWriteSide s'.var → s'.var.rgray = s.var.rgray →
      ∃ t', exec i s' = .next t' ∧ t.var.SameWriteSide t'.var ∧ t'.var.mem = t.var.mem ∧
        t'.var.fault = t.var.fault ∧ t'.resp = t.resp) ∧
    (i.port = .vc → s.var.SameReadSide s'.var → s'.var.wgray = s.var.wgray →
      ∃ t', exec i s' = .next t' ∧ t.var.SameReadSide t'.var ∧
        t'.var.fault = t.var.fault ∧ t'.resp = t.resp)

/-- No step changes a parameter (00_scope.md R11). -/
def Obligations.ParametersNeverChange : Prop :=
  ∀ s t : State, step s = .next t → t.fixed.cfg = s.fixed.cfg ∧ t.var.cfg = s.var.cfg

/-- Elaboration refuses exactly the parameters outside the legal values, and the derived parameters of a legal
configuration have the values and ranges R11 gives (60_exceptions.md R289; 00_scope.md R11). -/
def Obligations.ElaborationRefusesIllegalParameters : Prop :=
  (∀ p : FixedParams,
    ((FixedConfig.elaborate p).isSome = true ↔
      1 ≤ p.fW ∧ 1 ≤ p.fAw ∧ p.fAw ≤ 31 ∧ 2 ≤ p.stages) ∧
    ∀ c, FixedConfig.elaborate p = some c → c.toFixedParams = p) ∧
  (∀ p : VarParams,
    ((VarConfig.elaborate p).isSome = true ↔
      4 ≤ p.l ∧ p.l ≤ 31 ∧ 3 ≤ p.k ∧ p.k ≤ p.l - 1 ∧ 2 ≤ p.stages) ∧
    ∀ c, VarConfig.elaborate p = some c → c.toVarParams = p) ∧
  (∀ c : FixedConfig, c.slots = 2 ^ c.fAw ∧ 2 ≤ c.slots) ∧
  (∀ c : VarConfig, c.capacity = 2 ^ c.l ∧ c.block = 2 ^ c.k ∧ 8 ≤ c.block ∧
    c.block ≤ c.capacity / 2 ∧ 1 ≤ c.ptrWidth ∧ c.blocks * c.block = c.capacity)

/-! ### Gray code and publishing -/

/-- Bit `i` of `bin2gray(x)` is `x[i] XOR x[i+1]`, and bit `n-1` of an n-bit value's code is `x[n-1]`
(43_gray_pointer_sync.md R230). -/
def Obligations.GrayCodeBits : Prop :=
  ∀ n x : Nat, x < 2 ^ n →
    bin2gray x < 2 ^ n ∧
    (∀ i, (bin2gray x).testBit i = (x.testBit i ^^ x.testBit (i + 1))) ∧
    (1 ≤ n → (bin2gray x).testBit (n - 1) = x.testBit (n - 1))

/-- `gray2bin` is computed from the top bit down, `b[n-1] = g[n-1]` and `b[i] = b[i+1] XOR g[i]`, and it is the
inverse of `bin2gray` on n-bit values, in both directions; equivalently `b[i]` is the XOR of `g[n-1:i]`
(43_gray_pointer_sync.md R231). -/
def Obligations.GrayDecodingInvertsGrayCoding : Prop :=
  ∀ n : Nat,
    (∀ x, x < 2 ^ n → gray2bin n (bin2gray x) = x) ∧
    (∀ g, g < 2 ^ n → gray2bin n g < 2 ^ n ∧ bin2gray (gray2bin n g) = g ∧
      (1 ≤ n → (gray2bin n g).testBit (n - 1) = g.testBit (n - 1)) ∧
      (∀ i, i + 1 < n → (gray2bin n g).testBit i = ((gray2bin n g).testBit (i + 1) ^^ g.testBit i)) ∧
      ∀ i, i < n → (gray2bin n g).testBit i =
        (List.range (n - i)).foldl (fun acc k => (acc ^^ g.testBit (i + k))) false)

/-- Codes of successive values modulo `2^n` differ in exactly one bit, the wrap included; and the wrap from
`M - 1` to 0 changes a single bit only if the modulus `M` is a power of two (43_gray_pointer_sync.md R232). -/
def Obligations.SuccessiveGrayCodesDifferInOneBit : Prop :=
  (∀ n x : Nat, 1 ≤ n → x < 2 ^ n →
    ∃ i < n, bin2gray x ^^^ bin2gray ((x + 1) % 2 ^ n) = 2 ^ i) ∧
  (∀ n : Nat, 1 ≤ n → bin2gray (2 ^ n - 1) = 2 ^ (n - 1)) ∧ bin2gray 0 = 0 ∧
  (∀ m : Nat, 1 ≤ m → (∃ i, bin2gray (m - 1) ^^^ bin2gray 0 = 2 ^ i) → ∃ k, m = 2 ^ k)

/-- `cdist(a, b, M)` is `(b - a) mod M` over the integers (00_scope.md R14); a publish step keeps a published pointer
that has caught up, and otherwise brings it exactly one position nearer its pointer, around the ring
(43_gray_pointer_sync.md R233). -/
def Obligations.PublishStepMovesOnePositionForward : Prop :=
  (∀ a b m : Nat, 0 < m → (cdist a b m : Int) = ((b : Int) - (a : Int)) % (m : Int)) ∧
  (∀ pub ptr m : Nat, pub < m → ptr < m →
    publishStep pub ptr m < m ∧
    (pub = ptr → publishStep pub ptr m = ptr) ∧
    (pub ≠ ptr → publishStep pub ptr m = (pub + 1) % m ∧
      cdist (publishStep pub ptr m) ptr m + 1 = cdist pub ptr m))

/-! ### Placement and headers -/

/-- An oversized message is placed in no state, and VP.ALLOC of it returns `ok = 0` at every edge of an
instance without a fault (42_variable_packet_fifo.md R179; 60_exceptions.md R279). -/
def Obligations.OversizedMessagesAreNeverPlaced : Prop :=
  (∀ (c : VarConfig) (t h len : Nat), t < c.capacity → h < c.capacity →
    roundup (8 + len) c.block > c.capacity - c.block → vPlaceAt c t h len = none) ∧
  (∀ (s : State) (len : Nat) (b : Byte), s.var.fault = none → s.var.tail < s.var.cfg.capacity →
    roundup (8 + len) s.var.cfg.block > s.var.cfg.capacity - s.var.cfg.block →
    ∃ t, exec (.vpAlloc len b) s = .next t ∧ t.resp = .vp { ok := some false, hoff := none })

/-- No placement makes the tail land on the head, and none runs past the end of the buffer
(42_variable_packet_fifo.md R182; 20_memory.md R74). -/
def Obligations.PlacementNeverEndsAtTheHead : Prop :=
  ∀ (c : VarConfig) (t h len : Nat) (p : Placement), t < c.capacity → h < c.capacity →
    vPlaceAt c t h len = some p →
    p.total = roundup (8 + len) c.block ∧ p.off + p.total ≤ c.capacity ∧
    (p.off + p.total) % c.capacity ≠ h

/-- The largest TOTAL that is placed is `C - B`, and it is placed exactly when the FIFO is seen as empty at 0 or
at B (42_variable_packet_fifo.md R180). -/
def Obligations.LargestMessageIsPlacedOnlyAtZeroOrOneBlock : Prop :=
  ∀ (c : VarConfig) (t h len : Nat), t < c.capacity → h < c.capacity →
    t % c.block = 0 → h % c.block = 0 →
    (∀ p, vPlaceAt c t h len = some p → p.total ≤ c.capacity - c.block) ∧
    (roundup (8 + len) c.block = c.capacity - c.block →
      ((vPlaceAt c t h len).isSome = true ↔ t = h ∧ (t = 0 ∨ t = c.block)))

/-- A placement that wraps puts the message at offset 0 below the head, with the sentinel not at offset 0 and a
whole block left for it (42_variable_packet_fifo.md R178, R181). -/
def Obligations.WrappedPlacementLeavesRoomForTheSentinel : Prop :=
  ∀ (c : VarConfig) (t h len : Nat) (p : Placement), t < c.capacity → t % c.block = 0 →
    h % c.block = 0 → vPlaceAt c t h len = some p → p.wrap = true →
    p.off = 0 ∧ p.total < h ∧ h ≤ t ∧ c.block ≤ t ∧ t + c.block ≤ c.capacity

/-- An empty FIFO places every message of TOTAL up to half the capacity, wherever it stands
(42_variable_packet_fifo.md R196); and one standing at half the capacity refuses every message of a greater TOTAL,
the placeable ones among them (R197). -/
def Obligations.EmptyFifoPlacesUpToHalfTheCapacity : Prop :=
  (∀ (c : VarConfig) (x len : Nat), x < c.capacity → x % c.block = 0 →
    roundup (8 + len) c.block ≤ c.capacity / 2 → vPlaceAt c x x len ≠ none) ∧
  (∀ (c : VarConfig) (len : Nat), c.capacity / 2 < roundup (8 + len) c.block →
    vPlaceAt c (c.capacity / 2) (c.capacity / 2) len = none)

/-- A placement found with one head is found again with every later head on the arc up to the tail
(42_variable_packet_fifo.md R193, its proof's law). -/
def Obligations.PlacementSurvivesTheHeadMovingForward : Prop :=
  ∀ (c : VarConfig) (t h1 h2 len : Nat) (p : Placement),
    t < c.capacity → h1 < c.capacity → h2 < c.capacity →
    cdist h1 h2 c.capacity + cdist h2 t c.capacity = cdist h1 t c.capacity →
    vPlaceAt c t h1 len = some p → vPlaceAt c t h2 len = some p

/-- `roundup(x, B)` is the least multiple of `B` that is not below `x` (00_scope.md R14). A message header written
with `TOTAL = roundup(8 + len, B)`, and a sentinel, decode as what they are wherever they fit; and for any two
header words in storage `HdrDecode` gives what its checks say, V_HEADER_INVALID if one of the eight bytes was
never written (42_variable_packet_fifo.md R170 to R173). -/
def Obligations.WrittenHeadersDecode : Prop :=
  (∀ x b, 0 < b → b ∣ roundup x b ∧ x ≤ roundup x b ∧ roundup x b < x + b) ∧
  (∀ (c : VarConfig) (m : List Host.Cell) (o : Nat),
    (∀ len, roundup (8 + len) c.block ≤ c.capacity - c.block →
      o + roundup (8 + len) c.block ≤ c.capacity →
      ∃ m', writeHeader c m o (roundup (8 + len) c.block) len = .ok m' ∧
        hdrDecode c m' o = .ok (.message (roundup (8 + len) c.block) len)) ∧
    (o + 8 ≤ c.capacity →
      (∃ m', writeSentinel c m o = .ok m' ∧ hdrDecode c m' o = .ok .sentinel) ∧
      (∀ k, k < 8 → storeRead m (o + k) = none → hdrDecode c m o = .error (.record .vHeaderInvalid)) ∧
      (∀ tot info, tot < 2 ^ 32 → info < 2 ^ 32 →
        (∀ k, k < 8 → storeRead m (o + k) = some (headerByte tot info k)) →
        hdrDecode c m o =
          if 2 ^ 31 ≤ info then
            if tot = c.block ∧ info = 2 ^ 31 then .ok .sentinel else .error (.record .vHeaderInvalid)
          else if tot = roundup (8 + info) c.block ∧ tot ≤ c.capacity - c.block ∧ o + tot ≤ c.capacity then
            .ok (.message tot info)
          else .error (.record .vHeaderInvalid))))

/-- `VFrontView` is a function of `v_head`, `v_tail_r` and `v_mem`, and with `d = cdist(v_head, v_tail_r, C)` bytes
published beyond the head it gives: nothing if `d` is 0; the message at the head once its whole extent is
published; behind a sentinel the message at 0 once the skipped bytes and its whole extent are published; a second
sentinel there is a bad header, and a header that does not decode raises what decoding it raises
(42_variable_packet_fifo.md R183). -/
def Obligations.VisibilityNeedsTheWholeExtent : Prop :=
  (∀ (c : VarConfig) (m : List Host.Cell) (h tailR d : Nat), d = cdist h tailR c.capacity →
    (d = 0 → vFrontViewAt c m h tailR = .ok none) ∧
    (∀ e, hdrDecode c m h = .error e → d ≠ 0 → vFrontViewAt c m h tailR = .error e) ∧
    (∀ total len, hdrDecode c m h = .ok (.message total len) → d ≠ 0 →
      vFrontViewAt c m h tailR =
        .ok (if d < total then none else some { off := h, total := total, len := len })) ∧
    (hdrDecode c m h = .ok .sentinel → d ≠ 0 →
      (d ≤ c.capacity - h → vFrontViewAt c m h tailR = .ok none) ∧
      (d > c.capacity - h →
        (∀ total len, hdrDecode c m 0 = .ok (.message total len) →
          vFrontViewAt c m h tailR =
            .ok (if d < c.capacity - h + total then none
              else some { off := 0, total := total, len := len })) ∧
        (∀ e, hdrDecode c m 0 = .error e → vFrontViewAt c m h tailR = .error e) ∧
        (hdrDecode c m 0 = .ok .sentinel →
          vFrontViewAt c m h tailR = .error (.record .vHeaderInvalid))))) ∧
  (∀ v : Variable, vFrontView v = vFrontViewAt v.cfg v.mem v.head v.tailR)

/-! ### Invariants every step keeps -/

/-- Every step keeps the fixed-slot instance's invariant: widths, Gray registers, the chain around the ring and
room for a held reservation (43_gray_pointer_sync.md R247; 10_state.md R35, R49). -/
def Obligations.EveryStepKeepsTheFixedChain : Prop :=
  ∀ s t : State, s.fixed.Inv → step s = .next t → t.fixed.Inv

/-- Every step keeps the variable-length instance's invariant: widths, alignment, Gray registers, the chain, the
reservation in the producer's free region, and the unread region an exact sequence of segments with valid
headers (43_gray_pointer_sync.md R248; 10_state.md R35, R49; 42_variable_packet_fifo.md R176). -/
def Obligations.EveryStepKeepsTheVariableChain : Prop :=
  ∀ s t : State, s.var.Inv → step s = .next t → t.var.Inv

/-- Every step keeps each published pointer of the fixed FIFO at its pointer or one position behind
(43_gray_pointer_sync.md R245). -/
def Obligations.EveryStepKeepsPublishedPointersNear : Prop :=
  ∀ s t : State, s.fixed.Sized → s.fixed.PublishedNear → step s = .next t → t.fixed.PublishedNear

/-- Views are monotone: at every command each view stays or moves forward around the ring, and never passes the
pointer it stands for (43_gray_pointer_sync.md R244). -/
def Obligations.ViewsOnlyMoveForward : Prop :=
  ∀ (i : Instr) (s t : State), s.Inv → exec i s = .next t →
    (cdist s.fixed.headW t.fixed.headW s.fixed.cfg.slots + cdist t.fixed.headW t.fixed.head s.fixed.cfg.slots =
      cdist s.fixed.headW t.fixed.head s.fixed.cfg.slots) ∧
    (cdist s.fixed.tailR t.fixed.tailR s.fixed.cfg.slots + cdist t.fixed.tailR t.fixed.tail s.fixed.cfg.slots =
      cdist s.fixed.tailR t.fixed.tail s.fixed.cfg.slots) ∧
    (cdist s.var.headW t.var.headW s.var.cfg.capacity + cdist t.var.headW t.var.head s.var.cfg.capacity =
      cdist s.var.headW t.var.head s.var.cfg.capacity) ∧
    (cdist s.var.tailR t.var.tailR s.var.cfg.capacity + cdist t.var.tailR t.var.tail s.var.cfg.capacity =
      cdist s.var.tailR t.var.tail s.var.cfg.capacity)

/-- The invariants hold in the state after reset of every configuration, and that state is settled
(10_state.md R48; 43_gray_pointer_sync.md R245, R258). -/
def Obligations.InvariantsHoldAfterReset : Prop :=
  ∀ (fc : FixedConfig) (vc : VarConfig),
    (State.resetOf fc vc).Inv ∧ (State.resetOf fc vc).fixed.PublishedNear ∧
    (State.resetOf fc vc).fixed.Settled ∧ (State.resetOf fc vc).var.Settled ∧
    (State.resetOf fc vc).fixed.fault = none ∧ (State.resetOf fc vc).var.fault = none

/-- From a state with the invariants, a step answers a next state whenever the word presented is a word of its
port: no command names an address outside storage and none blocks (20_memory.md R74; 41_fixed_slot_fifo.md R146).
On an instance without a fault the command is executed: a response is driven, or its fault recorded. On a faulted
instance the edge is only consumed, without a response (log 6), and with nothing presented the step changes nothing
(log 5): both are the model's own. -/
def Obligations.EveryPresentedCommandCompletes : Prop :=
  ∀ s : State, s.Inv →
    (∀ port w rest, s.pending = .edge port w :: rest → w < 2 ^ portWidth s.fixed.cfg s.var.cfg port) →
    ∃ t, step s = .next t ∧
      (s.pending = [] → t = s) ∧
      ∀ port w rest, s.pending = .edge port w :: rest →
        (port.kind = .fixedSlot →
          (s.fixed.fault = none → t.resp ≠ .none ∨ t.fixed.fault ≠ none) ∧
          (s.fixed.fault ≠ none → t = { s with pending := rest, resp := .none })) ∧
        (port.kind = .variableLength →
          (s.var.fault = none → t.resp ≠ .none ∨ t.var.fault ≠ none) ∧
          (s.var.fault ≠ none → t = { s with pending := rest, resp := .none }))

/-- No step from a state with the invariant records V_HEADER_INVALID (42_variable_packet_fifo.md R173). -/
def Obligations.NoRunMeetsAnInvalidHeader : Prop :=
  ∀ s t : State, s.var.Inv → s.var.fault = none → step s = .next t →
    ∀ r, t.var.fault = some r → r.code ≠ .vHeaderInvalid

/-! ### The FIFOs are queues -/

/-- The fixed FIFO is a queue: FP.PUSH appends the content of the reserved slot, FC.POP removes the oldest
element, every other command and every faulting edge leaves the queue as it is, and FC.FRONT shows its oldest
element (41_fixed_slot_fifo.md R143, step by step). -/
def Obligations.FixedFifoRefinesAQueue : Prop :=
  ∀ (i : Instr) (s t : State), s.fixed.Inv → exec i s = .next t →
    (∀ data, i = .fpPush data → s.fixed.fault = none → s.fixed.resv = true →
      t.fixed.queue = s.fixed.queue ++ [storeRead s.fixed.mem s.fixed.tail]) ∧
    (i = .fcPop → t.fixed.fault = none → ∃ x, s.fixed.queue = x :: t.fixed.queue) ∧
    ((∀ data, i ≠ .fpPush data) → i ≠ .fcPop → t.fixed.queue = s.fixed.queue) ∧
    (t.fixed.fault ≠ none → t.fixed.queue = s.fixed.queue) ∧
    (∀ slot data, t.resp = .fc { ok := some true, slot := some slot, data := some data } →
      slot = s.fixed.head ∧ s.fixed.queue.head? = some (some data))

/-- The variable FIFO is a queue of messages: VP.PUSH appends the payload of the reserved message, VC.POP
removes the oldest message, every other command and every faulting edge leaves the queue as it is, VC.FRONT
shows the offset, TOTAL and LEN of the oldest message, which no sentinel is, and VC.READ its bytes
(42_variable_packet_fifo.md R195, R184, step by step). -/
def Obligations.VariableFifoRefinesAQueueOfMessages : Prop :=
  ∀ (i : Instr) (s t : State), s.var.Inv → exec i s = .next t →
    (∀ a b, i = .vpPush a b → s.var.fault = none → s.var.resv = true →
      t.var.queue = s.var.queue ++ [payloadOf s.var.mem s.var.resvOff s.var.resvLen]) ∧
    (∀ a, i = .vcPop a → t.var.fault = none → ∃ x, s.var.queue = x :: t.var.queue) ∧
    ((∀ a b, i ≠ .vpPush a b) → (∀ a, i ≠ .vcPop a) → t.var.queue = s.var.queue) ∧
    (t.var.fault ≠ none → t.var.queue = s.var.queue) ∧
    (∀ a m, i = .vcFront a → t.resp = .vc (vcShown m) →
      (∃ rest, s.var.unread = some (m :: rest)) ∧
      s.var.queue.head? = some (payloadOf s.var.mem m.off m.len)) ∧
    (∀ off b, i = .vcRead off → t.resp = .vc (vcByte b) →
      ∃ x, s.var.queue.head? = some x ∧ x[off]? = some (some b))

/-- What FRONT shows stays until POP: no other command of either port hides, moves or changes the shown slot or
message (42_variable_packet_fifo.md R194; 41_fixed_slot_fifo.md R138, R142). -/
def Obligations.ShownElementStaysUntilPop : Prop :=
  ∀ (i : Instr) (s t : State), s.Inv → exec i s = .next t →
    (s.fixed.head ≠ s.fixed.tailR → i ≠ .fcPop →
      t.fixed.head = s.fixed.head ∧ t.fixed.head ≠ t.fixed.tailR ∧
      storeRead t.fixed.mem t.fixed.head = storeRead s.fixed.mem s.fixed.head) ∧
    (∀ m, vFrontView s.var = .ok (some m) → (∀ a, i ≠ .vcPop a) →
      vFrontView t.var = .ok (some m) ∧
      payloadOf t.var.mem m.off m.len = payloadOf s.var.mem m.off m.len)

/-- No command writes storage that is pushed and not yet popped (20_memory.md R85; 70_reset_and_hazards.md R311). -/
def Obligations.UnreadStorageIsNeverWritten : Prop :=
  ∀ (i : Instr) (s t : State), s.Inv → exec i s = .next t →
    (∀ k, k < cdist s.fixed.head s.fixed.tail s.fixed.cfg.slots →
      storeRead t.fixed.mem ((s.fixed.head + k) % s.fixed.cfg.slots) =
        storeRead s.fixed.mem ((s.fixed.head + k) % s.fixed.cfg.slots)) ∧
    (∀ k, k < cdist s.var.head s.var.tail s.var.cfg.capacity →
      storeRead t.var.mem ((s.var.head + k) % s.var.cfg.capacity) =
        storeRead s.var.mem ((s.var.head + k) % s.var.cfg.capacity))

/-- VP.ALLOC is idempotent: after one that returned `ok = 1`, and any commands of any port among which is no VP.PUSH
and no VP.ALLOC of another length, in a run without a fault, a further VP.ALLOC of the same length returns the same
offset, keeps the reservation and leaves every byte of storage as it was (42_variable_packet_fifo.md R193). -/
def Obligations.RepeatedAllocKeepsTheMessage : Prop :=
  ∀ (len : Nat) (b b' : Byte) (cmds : List Instr) (s t u v : State) (hoff : Nat), s.var.Inv →
    exec (.vpAlloc len b) s = .next t → t.resp = .vp { ok := some true, hoff := some hoff } →
    (∀ i ∈ cmds, (∀ x y, i ≠ .vpPush x y) ∧ (∀ l y, i = .vpAlloc l y → l = len)) →
    execAll cmds t = .next u → u.var.fault = none → exec (.vpAlloc len b') u = .next v →
    v.resp = .vp { ok := some true, hoff := some hoff } ∧ t.var.SameReservation v.var ∧
    SameStore u.var.mem v.var.mem

/-! ### Views, latency and settling -/

/-- In a settled FIFO each view equals the pointer it stands for (43_gray_pointer_sync.md R258). -/
def Obligations.SettledViewsAreExact : Prop :=
  (∀ f : Fixed, f.Sized → f.GrayAgrees → f.Settled → f.tailR = f.tail ∧ f.headW = f.head) ∧
  (∀ v : Variable, v.Sized → v.GrayAgrees → v.Settled → v.tailR = v.tail ∧ v.headW = v.head)

/-- The status outputs have the values 10_state.md R43 gives, and are conservative: a FIFO that is truly full shows
full, one that is truly empty shows empty (70_reset_and_hazards.md R316). That `v_rempty` is neither 1 nor 0 where
`VFrontView` raises a fault is the model's own choice (log 14). -/
def Obligations.StatusOutputsAreConservative : Prop :=
  (∀ f : Fixed, (f.wfull = true ↔ (f.tail + 1) % f.cfg.slots = f.headW) ∧ f.wresv = f.resv ∧
    (f.rempty = true ↔ f.head = f.tailR)) ∧
  (∀ v : Variable, v.wresv = v.resv ∧ (v.rempty = some true ↔ vFrontView v = .ok none) ∧
    (v.rempty = some false ↔ ∃ m, vFrontView v = .ok (some m))) ∧
  (∀ f : Fixed, f.Inv →
    ((f.tail + 1) % f.cfg.slots = f.head → f.wfull = true) ∧ (f.head = f.tail → f.rempty = true)) ∧
  (∀ v : Variable, v.Inv → v.head = v.tail → v.rempty = some true)

/-- Crossing latency of the fixed FIFO from a settled state: a pushed slot is visible after exactly one more
write edge and then S read edges, and never without that write edge; a popped slot is free for the producer
after exactly one more read edge and then S write edges, and never without that read edge
(43_gray_pointer_sync.md R256, its first two rows). -/
def Obligations.FixedCrossingLatencyIsExact : Prop :=
  ∀ (s : State) (k : Nat), s.fixed.Sized → s.fixed.GrayAgrees → s.fixed.Settled → s.fixed.fault = none →
    (s.fixed.resv = true →
      (∃ t, execAll ([.fpPush 0, .fpNop 0] ++ List.replicate k .fcNop) s = .next t ∧
        t.fixed.tailR =
          if s.fixed.cfg.stages ≤ k then (s.fixed.tail + 1) % s.fixed.cfg.slots else s.fixed.tail) ∧
      (∃ t, execAll (.fpPush 0 :: List.replicate k .fcNop) s = .next t ∧ t.fixed.tailR = s.fixed.tail)) ∧
    (s.fixed.head ≠ s.fixed.tail →
      (∃ t, execAll ([.fcPop, .fcNop] ++ List.replicate k (.fpNop 0)) s = .next t ∧
        t.fixed.headW =
          if s.fixed.cfg.stages ≤ k then (s.fixed.head + 1) % s.fixed.cfg.slots else s.fixed.head) ∧
      (∃ t, execAll (.fcPop :: List.replicate k (.fpNop 0)) s = .next t ∧ t.fixed.headW = s.fixed.head))

/-- Crossing latency of the variable FIFO from a settled state: of a pushed message of `n` blocks, a wrap's skipped
blocks included, the consumer sees, after `j` further write edges and `k` read edges, `min j n` blocks if `k ≥ S`
and none otherwise; and of `n` popped blocks the producer sees as free, after `j` further read edges and `k` write
edges, `min j n` if `k ≥ S` and none otherwise (43_gray_pointer_sync.md R256, its last two rows; R236, R237). -/
def Obligations.VariablePushIsPublishedBlockByBlock : Prop :=
  ∀ (s : State) (j k n e : Nat), s.var.Inv → s.var.Settled → s.var.fault = none →
    (s.var.resv = true → e = (s.var.resvOff + s.var.resvTotal) % s.var.cfg.capacity →
      n = cdist s.var.tail e s.var.cfg.capacity / s.var.cfg.block →
      ∃ t, execAll (.vpPush 0 0 :: (List.replicate j (.vpNop 0 0) ++ List.replicate k (.vcNop 0))) s = .next t ∧
        t.var.tail = e ∧
        t.var.tailR =
          if s.var.cfg.stages ≤ k then (s.var.tail + min j n * s.var.cfg.block) % s.var.cfg.capacity
          else s.var.tail) ∧
    (∀ m, vFrontView s.var = .ok (some m) → e = (m.off + m.total) % s.var.cfg.capacity →
      n = cdist s.var.head e s.var.cfg.capacity / s.var.cfg.block →
      ∃ t, execAll (.vcPop 0 :: (List.replicate j (.vcNop 0) ++ List.replicate k (.vpNop 0 0))) s = .next t ∧
        t.var.head = e ∧
        t.var.headW =
          if s.var.cfg.stages ≤ k then (s.var.head + min j n * s.var.cfg.block) % s.var.cfg.capacity
          else s.var.head)

/-- The settle procedure: from a state without a fault, `M + S` write NOPs, `M + S` read NOPs and `S` write
NOPs settle the FIFO, with `M = 1` for the fixed one and `M = NB` for the variable one, and move no pointer; after it
every view equals its pointer (70_reset_and_hazards.md R321). -/
def Obligations.SettleProcedureSettles : Prop :=
  ∀ s : State,
    (s.fixed.Inv → s.fixed.PublishedNear → s.fixed.fault = none →
      ∃ t, execAll (List.replicate (1 + s.fixed.cfg.stages) (.fpNop 0) ++
          List.replicate (1 + s.fixed.cfg.stages) .fcNop ++
          List.replicate s.fixed.cfg.stages (.fpNop 0)) s = .next t ∧
        t.fixed.Settled ∧ t.fixed.tail = s.fixed.tail ∧ t.fixed.head = s.fixed.head ∧
        t.fixed.tailR = s.fixed.tail ∧ t.fixed.headW = s.fixed.head) ∧
    (s.var.Inv → s.var.fault = none →
      ∃ t, execAll (List.replicate (s.var.cfg.blocks + s.var.cfg.stages) (.vpNop 0 0) ++
          List.replicate (s.var.cfg.blocks + s.var.cfg.stages) (.vcNop 0) ++
          List.replicate s.var.cfg.stages (.vpNop 0 0)) s = .next t ∧
        t.var.Settled ∧ t.var.tail = s.var.tail ∧ t.var.head = s.var.head ∧
        t.var.tailR = s.var.tail ∧ t.var.headW = s.var.head)

/-- The fixed FIFO never holds more than `N - 1` elements in a state with its invariant (00_scope.md R12). Capacity
and wraparound: from reset, with no FC.POP and no fault, at most `N - 1` slots
are pushed, whatever the order of the commands of the two ports, and then FP.ALLOC returns `ok = 0`; one
FC.POP, one read edge and S write edges later it reserves slot `N - 1` (41_fixed_slot_fifo.md R141). -/
def Obligations.FixedFifoHoldsAtMostNMinusOne : Prop :=
  (∀ f : Fixed, f.Inv → f.queue.length ≤ f.cfg.slots - 1) ∧
  (∀ (fc : FixedConfig) (vc : VarConfig) (cmds : List Instr) (t : State),
    (∀ i ∈ cmds, i.port.kind = .fixedSlot ∧ i ≠ .fcPop) →
    execAll cmds (State.resetOf fc vc) = .next t → t.fixed.fault = none →
    cmds.countP isFpPush ≤ fc.slots - 1 ∧
    (cmds.countP isFpPush = fc.slots - 1 →
      (∀ data, ∃ u, exec (.fpAlloc data) t = .next u ∧ u.resp = .fp { ok := some false, slot := none }) ∧
      (∀ u, exec .fcPop t = .next u → u.fixed.fault = none →
        ∃ w, execAll (.fcNop :: (List.replicate fc.stages (.fpNop 0) ++ [.fpAlloc 0])) u = .next w ∧
          w.resp = .fp { ok := some true, slot := some (fc.slots - 1) })))

/-- Liveness in every infinite run of an instance with weak fairness, without a fault and without a reset, whatever
the interleaving (43_gray_pointer_sync.md R257). With `travelled` counting the positions (fixed) or bytes (variable)
each pointer has moved since the start: whatever was pushed by step `n` is at some later step popped or visible to
the consumer; while a message is unread, one becomes visible; whatever was popped by step `n` is at some later step
no longer occupied in the producer's view; and once neither pointer moves the FIFO settles for good: every element
of the chain reaches its pointer. That a run presents one event at each step is the model's own (logs 4 and 17). -/
def Obligations.EveryMoveBecomesVisibleInFairRuns : Prop :=
  ∀ (env : Nat → Event) (st : Nat → State), InfiniteRun env st →
    ((st 0).fixed.Inv → WeaklyFair .fixedSlot env →
      (∀ n, (st n).fixed.fault = none ∧ env n ≠ .reset .fixedSlot) →
      ∀ N, N = (st 0).fixed.cfg.slots → ∀ n,
        (∃ m, n ≤ m ∧ cdist (st 0).fixed.head (st 0).fixed.tail N + travelled N (fun k => (st k).fixed.tail) n ≤
          travelled N (fun k => (st k).fixed.head) m + cdist (st m).fixed.head (st m).fixed.tailR N) ∧
        (∃ m, n ≤ m ∧ travelled N (fun k => (st k).fixed.head) n + cdist (st m).fixed.headW (st m).fixed.tail N ≤
          cdist (st 0).fixed.head (st 0).fixed.tail N + travelled N (fun k => (st k).fixed.tail) m) ∧
        ((∀ k, n ≤ k → (st k).fixed.tail = (st n).fixed.tail ∧ (st k).fixed.head = (st n).fixed.head) →
          ∃ m, n ≤ m ∧ ∀ k, m ≤ k → (st k).fixed.Settled)) ∧
    ((st 0).var.Inv → WeaklyFair .variableLength env →
      (∀ n, (st n).var.fault = none ∧ env n ≠ .reset .variableLength) →
      ∀ C, C = (st 0).var.cfg.capacity → ∀ n,
        (∃ m, n ≤ m ∧ cdist (st 0).var.head (st 0).var.tail C + travelled C (fun k => (st k).var.tail) n ≤
          travelled C (fun k => (st k).var.head) m + cdist (st m).var.head (st m).var.tailR C) ∧
        ((st n).var.head ≠ (st n).var.tail → ∃ m x, n ≤ m ∧ vFrontView (st m).var = .ok (some x)) ∧
        (∃ m, n ≤ m ∧ travelled C (fun k => (st k).var.head) n + cdist (st m).var.headW (st m).var.tail C ≤
          cdist (st 0).var.head (st 0).var.tail C + travelled C (fun k => (st k).var.tail) m) ∧
        ((∀ k, n ≤ k → (st k).var.tail = (st n).var.tail ∧ (st k).var.head = (st n).var.head) →
          ∃ m, n ≤ m ∧ ∀ k, m ≤ k → (st k).var.Settled))
end

