-- ==== Sys2Proof/Laws/Gray.lean ====
section
/-!
SUPPORT. Circular distance, and the ranges of Gray values, views, published pointers and synchroniser stages.
-/
namespace Sys2Proof.Machine

/-! ### Circular distance -/

/-- The distance between two positions of the ring, without the reduction. -/
theorem cdist_eq {a b m : Nat} (ha : a < m) (hb : b < m) :
    cdist a b m = if a ≤ b then b - a else b + m - a := by
  simp only [cdist, Nat.mod_eq_of_lt ha]
  split
  · rw [show b + (m - a) = (b - a) + m by omega, Nat.add_mod_right, Nat.mod_eq_of_lt (by omega)]
  · rw [show b + (m - a) = b + m - a by omega, Nat.mod_eq_of_lt (by omega)]

theorem cdist_lt {a b m : Nat} (hm : 0 < m) : cdist a b m < m := Nat.mod_lt _ hm

theorem cdist_self {a m : Nat} (ha : a < m) : cdist a a m = 0 := by simp [cdist_eq ha ha]

/-- The distance is 0 only between equal positions. -/
theorem cdist_eq_zero {a b m : Nat} (ha : a < m) (hb : b < m) : cdist a b m = 0 ↔ a = b := by
  rw [cdist_eq ha hb]
  split <;> omega

/-! ### Gray values and views -/

theorem slots_pos (c : FixedConfig) : 0 < c.slots := Nat.two_pow_pos _
theorem blocks_pos (c : VarConfig) : 0 < c.blocks := Nat.two_pow_pos _
theorem block_pos (c : VarConfig) : 0 < c.block := Nat.two_pow_pos _
theorem capacity_pos (c : VarConfig) : 0 < c.capacity := Nat.two_pow_pos _

/-- `NB × B = C` (00_scope.md R11). -/
theorem blocks_mul_block (c : VarConfig) : c.blocks * c.block = c.capacity := by
  simp only [VarConfig.blocks, VarConfig.block, VarConfig.capacity, VarConfig.ptrWidth, ← pow_add]
  congr 1
  have := c.legal
  omega

theorem xorShifts_lt {n g : Nat} (h : g < 2 ^ n) (k : Nat) : xorShifts k g < 2 ^ n := by
  induction k with
  | zero => exact Nat.two_pow_pos _
  | succ k ih =>
    refine Nat.xor_lt_two_pow ih (Nat.lt_of_le_of_lt ?_ h)
    rw [Nat.shiftRight_eq_div_pow]
    exact Nat.div_le_self _ _

/-- A decoded Gray value is an n-bit value. -/
theorem gray2bin_lt (n g : Nat) : gray2bin n g < 2 ^ n :=
  xorShifts_lt (Nat.mod_lt _ (Nat.two_pow_pos _)) _

/-- The code of an n-bit value is an n-bit value. -/
theorem bin2gray_lt {n x : Nat} (h : x < 2 ^ n) : bin2gray x < 2 ^ n := by
  refine Nat.xor_lt_two_pow h (Nat.lt_of_le_of_lt ?_ h)
  rw [Nat.shiftRight_eq_div_pow]
  exact Nat.div_le_self _ _

@[simp] theorem bin2gray_zero : bin2gray 0 = 0 := rfl

@[simp] theorem gray2bin_zero (n : Nat) : gray2bin n 0 = 0 := by
  have h : ∀ k, xorShifts k 0 = 0 := fun k => by
    induction k with
    | zero => rfl
    | succ k ih => simp [xorShifts, ih]
  simp [gray2bin, h]

theorem Fixed.headW_lt (f : Fixed) : f.headW < f.cfg.slots := gray2bin_lt _ _
theorem Fixed.tailR_lt (f : Fixed) : f.tailR < f.cfg.slots := gray2bin_lt _ _

/-- A block pointer times the block size is an offset inside the buffer. -/
theorem mul_block_lt (c : VarConfig) {x : Nat} (h : x < c.blocks) : x * c.block < c.capacity := by
  rw [← blocks_mul_block]
  exact Nat.mul_lt_mul_of_pos_right h (block_pos c)

theorem Variable.headW_lt (v : Variable) : v.headW < v.cfg.capacity := mul_block_lt _ (gray2bin_lt _ _)
theorem Variable.tailR_lt (v : Variable) : v.tailR < v.cfg.capacity := mul_block_lt _ (gray2bin_lt _ _)

/-! ### Publishing and shifting -/

theorem publishStep_lt {pub ptr m : Nat} (h : pub < m) : publishStep pub ptr m < m := by
  unfold publishStep
  split
  · exact h
  · exact Nat.mod_lt _ (by omega)

theorem shiftIn_length {n g : Nat} {l : List Nat} (h : l.length = n) : (shiftIn n g l).length = n := by
  simp [shiftIn, h]

/-- A stage after a shift holds the sample or what a stage held before. -/
theorem mem_shiftIn {n g x : Nat} {l : List Nat} (h : x ∈ shiftIn n g l) : x = g ∨ x ∈ l :=
  List.mem_cons.1 (List.mem_of_mem_take h)

end Sys2Proof.Machine
end

