-- ==== Sys2Proof/Laws/State.lean ====
section
/-!
SUPPORT. One lemma for each field of each update of the state, all true by `rfl`, so that no proof unfolds a
record update.
-/
namespace Sys2Proof.Machine

/-! ### `Fixed.wTick` -/

@[simp] theorem Fixed.wTick_cfg (f pre : Fixed) : (f.wTick pre).cfg = f.cfg := rfl
@[simp] theorem Fixed.wTick_tail (f pre : Fixed) : (f.wTick pre).tail = f.tail := rfl
@[simp] theorem Fixed.wTick_resv (f pre : Fixed) : (f.wTick pre).resv = f.resv := rfl
@[simp] theorem Fixed.wTick_wpub (f pre : Fixed) :
    (f.wTick pre).wpub = publishStep pre.wpub pre.tail pre.cfg.slots := rfl
@[simp] theorem Fixed.wTick_wgray (f pre : Fixed) :
    (f.wTick pre).wgray = bin2gray (publishStep pre.wpub pre.tail pre.cfg.slots) := rfl
@[simp] theorem Fixed.wTick_rsync (f pre : Fixed) :
    (f.wTick pre).rsync = shiftIn pre.cfg.stages pre.rgray pre.rsync := rfl
@[simp] theorem Fixed.wTick_head (f pre : Fixed) : (f.wTick pre).head = f.head := rfl
@[simp] theorem Fixed.wTick_rpub (f pre : Fixed) : (f.wTick pre).rpub = f.rpub := rfl
@[simp] theorem Fixed.wTick_rgray (f pre : Fixed) : (f.wTick pre).rgray = f.rgray := rfl
@[simp] theorem Fixed.wTick_wsync (f pre : Fixed) : (f.wTick pre).wsync = f.wsync := rfl
@[simp] theorem Fixed.wTick_mem (f pre : Fixed) : (f.wTick pre).mem = f.mem := rfl
@[simp] theorem Fixed.wTick_fault (f pre : Fixed) : (f.wTick pre).fault = f.fault := rfl

/-! ### `Fixed.rTick` -/

@[simp] theorem Fixed.rTick_cfg (f pre : Fixed) : (f.rTick pre).cfg = f.cfg := rfl
@[simp] theorem Fixed.rTick_tail (f pre : Fixed) : (f.rTick pre).tail = f.tail := rfl
@[simp] theorem Fixed.rTick_resv (f pre : Fixed) : (f.rTick pre).resv = f.resv := rfl
@[simp] theorem Fixed.rTick_wpub (f pre : Fixed) : (f.rTick pre).wpub = f.wpub := rfl
@[simp] theorem Fixed.rTick_wgray (f pre : Fixed) : (f.rTick pre).wgray = f.wgray := rfl
@[simp] theorem Fixed.rTick_rsync (f pre : Fixed) : (f.rTick pre).rsync = f.rsync := rfl
@[simp] theorem Fixed.rTick_head (f pre : Fixed) : (f.rTick pre).head = f.head := rfl
@[simp] theorem Fixed.rTick_rpub (f pre : Fixed) :
    (f.rTick pre).rpub = publishStep pre.rpub pre.head pre.cfg.slots := rfl
@[simp] theorem Fixed.rTick_rgray (f pre : Fixed) :
    (f.rTick pre).rgray = bin2gray (publishStep pre.rpub pre.head pre.cfg.slots) := rfl
@[simp] theorem Fixed.rTick_wsync (f pre : Fixed) :
    (f.rTick pre).wsync = shiftIn pre.cfg.stages pre.wgray pre.wsync := rfl
@[simp] theorem Fixed.rTick_mem (f pre : Fixed) : (f.rTick pre).mem = f.mem := rfl
@[simp] theorem Fixed.rTick_fault (f pre : Fixed) : (f.rTick pre).fault = f.fault := rfl

/-! ### `Fixed.takeFault` -/

@[simp] theorem Fixed.takeFault_cfg (f : Fixed) (code : FaultCode) (d : Domain) (w : Nat) :
    (f.takeFault code d w).cfg = f.cfg := rfl
@[simp] theorem Fixed.takeFault_tail (f : Fixed) (code : FaultCode) (d : Domain) (w : Nat) :
    (f.takeFault code d w).tail = f.tail := rfl
@[simp] theorem Fixed.takeFault_resv (f : Fixed) (code : FaultCode) (d : Domain) (w : Nat) :
    (f.takeFault code d w).resv = f.resv := rfl
@[simp] theorem Fixed.takeFault_wpub (f : Fixed) (code : FaultCode) (d : Domain) (w : Nat) :
    (f.takeFault code d w).wpub = f.wpub := rfl
@[simp] theorem Fixed.takeFault_wgray (f : Fixed) (code : FaultCode) (d : Domain) (w : Nat) :
    (f.takeFault code d w).wgray = f.wgray := rfl
@[simp] theorem Fixed.takeFault_rsync (f : Fixed) (code : FaultCode) (d : Domain) (w : Nat) :
    (f.takeFault code d w).rsync = f.rsync := rfl
@[simp] theorem Fixed.takeFault_head (f : Fixed) (code : FaultCode) (d : Domain) (w : Nat) :
    (f.takeFault code d w).head = f.head := rfl
@[simp] theorem Fixed.takeFault_rpub (f : Fixed) (code : FaultCode) (d : Domain) (w : Nat) :
    (f.takeFault code d w).rpub = f.rpub := rfl
@[simp] theorem Fixed.takeFault_rgray (f : Fixed) (code : FaultCode) (d : Domain) (w : Nat) :
    (f.takeFault code d w).rgray = f.rgray := rfl
@[simp] theorem Fixed.takeFault_wsync (f : Fixed) (code : FaultCode) (d : Domain) (w : Nat) :
    (f.takeFault code d w).wsync = f.wsync := rfl
@[simp] theorem Fixed.takeFault_mem (f : Fixed) (code : FaultCode) (d : Domain) (w : Nat) :
    (f.takeFault code d w).mem = f.mem := rfl
@[simp] theorem Fixed.takeFault_fault (f : Fixed) (code : FaultCode) (d : Domain) (w : Nat) :
    (f.takeFault code d w).fault = some { code := code, domain := d, cmd := w } := rfl

/-! ### `Fixed.doReset` -/

@[simp] theorem Fixed.doReset_cfg (f : Fixed) : f.doReset.cfg = f.cfg := rfl
@[simp] theorem Fixed.doReset_tail (f : Fixed) : f.doReset.tail = 0 := rfl
@[simp] theorem Fixed.doReset_resv (f : Fixed) : f.doReset.resv = false := rfl
@[simp] theorem Fixed.doReset_wpub (f : Fixed) : f.doReset.wpub = 0 := rfl
@[simp] theorem Fixed.doReset_wgray (f : Fixed) : f.doReset.wgray = 0 := rfl
@[simp] theorem Fixed.doReset_rsync (f : Fixed) : f.doReset.rsync = List.replicate f.cfg.stages 0 := rfl
@[simp] theorem Fixed.doReset_head (f : Fixed) : f.doReset.head = 0 := rfl
@[simp] theorem Fixed.doReset_rpub (f : Fixed) : f.doReset.rpub = 0 := rfl
@[simp] theorem Fixed.doReset_rgray (f : Fixed) : f.doReset.rgray = 0 := rfl
@[simp] theorem Fixed.doReset_wsync (f : Fixed) : f.doReset.wsync = List.replicate f.cfg.stages 0 := rfl
@[simp] theorem Fixed.doReset_mem (f : Fixed) : f.doReset.mem = f.mem := rfl
@[simp] theorem Fixed.doReset_fault (f : Fixed) : f.doReset.fault = none := rfl

/-! ### `Variable.wTick` -/

@[simp] theorem Variable.wTick_cfg (v pre : Variable) : (v.wTick pre).cfg = v.cfg := rfl
@[simp] theorem Variable.wTick_tail (v pre : Variable) : (v.wTick pre).tail = v.tail := rfl
@[simp] theorem Variable.wTick_resv (v pre : Variable) : (v.wTick pre).resv = v.resv := rfl
@[simp] theorem Variable.wTick_resvOff (v pre : Variable) : (v.wTick pre).resvOff = v.resvOff := rfl
@[simp] theorem Variable.wTick_resvTotal (v pre : Variable) : (v.wTick pre).resvTotal = v.resvTotal := rfl
@[simp] theorem Variable.wTick_resvLen (v pre : Variable) : (v.wTick pre).resvLen = v.resvLen := rfl
@[simp] theorem Variable.wTick_wpub (v pre : Variable) :
    (v.wTick pre).wpub = publishStep pre.wpub (pre.tail / pre.cfg.block) pre.cfg.blocks := rfl
@[simp] theorem Variable.wTick_wgray (v pre : Variable) :
    (v.wTick pre).wgray = bin2gray (publishStep pre.wpub (pre.tail / pre.cfg.block) pre.cfg.blocks) := rfl
@[simp] theorem Variable.wTick_rsync (v pre : Variable) :
    (v.wTick pre).rsync = shiftIn pre.cfg.stages pre.rgray pre.rsync := rfl
@[simp] theorem Variable.wTick_head (v pre : Variable) : (v.wTick pre).head = v.head := rfl
@[simp] theorem Variable.wTick_rpub (v pre : Variable) : (v.wTick pre).rpub = v.rpub := rfl
@[simp] theorem Variable.wTick_rgray (v pre : Variable) : (v.wTick pre).rgray = v.rgray := rfl
@[simp] theorem Variable.wTick_wsync (v pre : Variable) : (v.wTick pre).wsync = v.wsync := rfl
@[simp] theorem Variable.wTick_mem (v pre : Variable) : (v.wTick pre).mem = v.mem := rfl
@[simp] theorem Variable.wTick_fault (v pre : Variable) : (v.wTick pre).fault = v.fault := rfl

/-! ### `Variable.rTick` -/

@[simp] theorem Variable.rTick_cfg (v pre : Variable) : (v.rTick pre).cfg = v.cfg := rfl
@[simp] theorem Variable.rTick_tail (v pre : Variable) : (v.rTick pre).tail = v.tail := rfl
@[simp] theorem Variable.rTick_resv (v pre : Variable) : (v.rTick pre).resv = v.resv := rfl
@[simp] theorem Variable.rTick_resvOff (v pre : Variable) : (v.rTick pre).resvOff = v.resvOff := rfl
@[simp] theorem Variable.rTick_resvTotal (v pre : Variable) : (v.rTick pre).resvTotal = v.resvTotal := rfl
@[simp] theorem Variable.rTick_resvLen (v pre : Variable) : (v.rTick pre).resvLen = v.resvLen := rfl
@[simp] theorem Variable.rTick_wpub (v pre : Variable) : (v.rTick pre).wpub = v.wpub := rfl
@[simp] theorem Variable.rTick_wgray (v pre : Variable) : (v.rTick pre).wgray = v.wgray := rfl
@[simp] theorem Variable.rTick_rsync (v pre : Variable) : (v.rTick pre).rsync = v.rsync := rfl
@[simp] theorem Variable.rTick_head (v pre : Variable) : (v.rTick pre).head = v.head := rfl
@[simp] theorem Variable.rTick_rpub (v pre : Variable) :
    (v.rTick pre).rpub = publishStep pre.rpub (pre.head / pre.cfg.block) pre.cfg.blocks := rfl
@[simp] theorem Variable.rTick_rgray (v pre : Variable) :
    (v.rTick pre).rgray = bin2gray (publishStep pre.rpub (pre.head / pre.cfg.block) pre.cfg.blocks) := rfl
@[simp] theorem Variable.rTick_wsync (v pre : Variable) :
    (v.rTick pre).wsync = shiftIn pre.cfg.stages pre.wgray pre.wsync := rfl
@[simp] theorem Variable.rTick_mem (v pre : Variable) : (v.rTick pre).mem = v.mem := rfl
@[simp] theorem Variable.rTick_fault (v pre : Variable) : (v.rTick pre).fault = v.fault := rfl

/-! ### `Variable.takeFault` -/

@[simp] theorem Variable.takeFault_cfg (v : Variable) (code : FaultCode) (d : Domain) (w : Nat) :
    (v.takeFault code d w).cfg = v.cfg := rfl
@[simp] theorem Variable.takeFault_tail (v : Variable) (code : FaultCode) (d : Domain) (w : Nat) :
    (v.takeFault code d w).tail = v.tail := rfl
@[simp] theorem Variable.takeFault_resv (v : Variable) (code : FaultCode) (d : Domain) (w : Nat) :
    (v.takeFault code d w).resv = v.resv := rfl
@[simp] theorem Variable.takeFault_resvOff (v : Variable) (code : FaultCode) (d : Domain) (w : Nat) :
    (v.takeFault code d w).resvOff = v.resvOff := rfl
@[simp] theorem Variable.takeFault_resvTotal (v : Variable) (code : FaultCode) (d : Domain) (w : Nat) :
    (v.takeFault code d w).resvTotal = v.resvTotal := rfl
@[simp] theorem Variable.takeFault_resvLen (v : Variable) (code : FaultCode) (d : Domain) (w : Nat) :
    (v.takeFault code d w).resvLen = v.resvLen := rfl
@[simp] theorem Variable.takeFault_wpub (v : Variable) (code : FaultCode) (d : Domain) (w : Nat) :
    (v.takeFault code d w).wpub = v.wpub := rfl
@[simp] theorem Variable.takeFault_wgray (v : Variable) (code : FaultCode) (d : Domain) (w : Nat) :
    (v.takeFault code d w).wgray = v.wgray := rfl
@[simp] theorem Variable.takeFault_rsync (v : Variable) (code : FaultCode) (d : Domain) (w : Nat) :
    (v.takeFault code d w).rsync = v.rsync := rfl
@[simp] theorem Variable.takeFault_head (v : Variable) (code : FaultCode) (d : Domain) (w : Nat) :
    (v.takeFault code d w).head = v.head := rfl
@[simp] theorem Variable.takeFault_rpub (v : Variable) (code : FaultCode) (d : Domain) (w : Nat) :
    (v.takeFault code d w).rpub = v.rpub := rfl
@[simp] theorem Variable.takeFault_rgray (v : Variable) (code : FaultCode) (d : Domain) (w : Nat) :
    (v.takeFault code d w).rgray = v.rgray := rfl
@[simp] theorem Variable.takeFault_wsync (v : Variable) (code : FaultCode) (d : Domain) (w : Nat) :
    (v.takeFault code d w).wsync = v.wsync := rfl
@[simp] theorem Variable.takeFault_mem (v : Variable) (code : FaultCode) (d : Domain) (w : Nat) :
    (v.takeFault code d w).mem = v.mem := rfl
@[simp] theorem Variable.takeFault_fault (v : Variable) (code : FaultCode) (d : Domain) (w : Nat) :
    (v.takeFault code d w).fault = some { code := code, domain := d, cmd := w } := rfl

/-! ### `Variable.doReset` -/

@[simp] theorem Variable.doReset_cfg (v : Variable) : v.doReset.cfg = v.cfg := rfl
@[simp] theorem Variable.doReset_tail (v : Variable) : v.doReset.tail = 0 := rfl
@[simp] theorem Variable.doReset_resv (v : Variable) : v.doReset.resv = false := rfl
@[simp] theorem Variable.doReset_resvOff (v : Variable) : v.doReset.resvOff = 0 := rfl
@[simp] theorem Variable.doReset_resvTotal (v : Variable) : v.doReset.resvTotal = 0 := rfl
@[simp] theorem Variable.doReset_resvLen (v : Variable) : v.doReset.resvLen = 0 := rfl
@[simp] theorem Variable.doReset_wpub (v : Variable) : v.doReset.wpub = 0 := rfl
@[simp] theorem Variable.doReset_wgray (v : Variable) : v.doReset.wgray = 0 := rfl
@[simp] theorem Variable.doReset_rsync (v : Variable) : v.doReset.rsync = List.replicate v.cfg.stages 0 := rfl
@[simp] theorem Variable.doReset_head (v : Variable) : v.doReset.head = 0 := rfl
@[simp] theorem Variable.doReset_rpub (v : Variable) : v.doReset.rpub = 0 := rfl
@[simp] theorem Variable.doReset_rgray (v : Variable) : v.doReset.rgray = 0 := rfl
@[simp] theorem Variable.doReset_wsync (v : Variable) : v.doReset.wsync = List.replicate v.cfg.stages 0 := rfl
@[simp] theorem Variable.doReset_mem (v : Variable) : v.doReset.mem = v.mem := rfl
@[simp] theorem Variable.doReset_fault (v : Variable) : v.doReset.fault = none := rfl

/-! ### `State.putFixed` and `State.putVar` -/

@[simp] theorem State.putFixed_fixed (s : State) (f : Fixed) (r : Response) : (s.putFixed f r).fixed = f := rfl
@[simp] theorem State.putFixed_var (s : State) (f : Fixed) (r : Response) : (s.putFixed f r).var = s.var := rfl
@[simp] theorem State.putFixed_pending (s : State) (f : Fixed) (r : Response) :
    (s.putFixed f r).pending = s.pending := rfl
@[simp] theorem State.putFixed_resp (s : State) (f : Fixed) (r : Response) : (s.putFixed f r).resp = r := rfl

@[simp] theorem State.putVar_fixed (s : State) (v : Variable) (r : Response) : (s.putVar v r).fixed = s.fixed := rfl
@[simp] theorem State.putVar_var (s : State) (v : Variable) (r : Response) : (s.putVar v r).var = v := rfl
@[simp] theorem State.putVar_pending (s : State) (v : Variable) (r : Response) :
    (s.putVar v r).pending = s.pending := rfl
@[simp] theorem State.putVar_resp (s : State) (v : Variable) (r : Response) : (s.putVar v r).resp = r := rfl

end Sys2Proof.Machine
end

