-- ==== Sys2Proof/Laws/Store.lean ====
section
/-!
SUPPORT. The laws of storage: a read after a write, the canonical form, the existing addresses, and the
little-endian accesses made of them.
-/
namespace Sys2Proof.Machine

/-! ### One element -/

@[simp] theorem storeRead_nil {α : Type} (a : Nat) : storeRead ([] : Store α) a = none := rfl

/-- A read after a write: the value written at its address, the earlier content elsewhere. -/
theorem storeRead_storeWrite {α : Type} (m : Store α) (a : Nat) (v : α) (b : Nat) :
    storeRead (storeWrite m a v) b = if b = a then some v else storeRead m b := by
  induction m with
  | nil => simp [storeWrite, storeRead, eq_comm]
  | cons c m ih =>
    obtain ⟨k, w⟩ := c
    simp only [storeWrite]
    split
    · by_cases h : b = a
      · simp [storeRead, h]
      · simp [storeRead, h, Ne.symm h]
    · split
      · by_cases h : b = a
        · simp_all [storeRead]
        · simp_all [storeRead, eq_comm]
      · simp only [storeRead, ih]
        split <;> split <;> simp_all

@[simp] theorem storeRead_storeWrite_same {α : Type} (m : Store α) (a : Nat) (v : α) :
    storeRead (storeWrite m a v) a = some v := by simp [storeRead_storeWrite]

theorem storeRead_storeWrite_ne {α : Type} (m : Store α) {a b : Nat} (v : α) (h : b ≠ a) :
    storeRead (storeWrite m a v) b = storeRead m b := by simp [storeRead_storeWrite, h]

/-- Every entry a write leaves is the one written or was there before. -/
theorem mem_storeWrite {α : Type} {m : Store α} {a : Nat} {v : α} {c : Nat × α}
    (h : c ∈ storeWrite m a v) : c = (a, v) ∨ c ∈ m := by
  induction m with
  | nil => simpa [storeWrite] using h
  | cons d m ih =>
    obtain ⟨k, w⟩ := d
    simp only [storeWrite] at h
    split at h
    · simpa using h
    · split at h
      · rcases List.mem_cons.1 h with rfl | h
        · exact .inl rfl
        · exact .inr (List.mem_cons_of_mem _ h)
      · rcases List.mem_cons.1 h with rfl | h
        · exact .inr (List.mem_cons_self ..)
        · exact (ih h).imp_right (List.mem_cons_of_mem _)

/-- A write keeps the canonical form. -/
theorem Store.wf_storeWrite {α : Type} {m : Store α} (h : Store.wf m) (a : Nat) (v : α) :
    Store.wf (storeWrite m a v) := by
  induction m with
  | nil => simp [Store.wf, storeWrite]
  | cons c m ih =>
    obtain ⟨k, w⟩ := c
    have ⟨hk, hm⟩ := List.pairwise_cons.1 h
    simp only [storeWrite]
    split
    · next hlt =>
      refine List.pairwise_cons.2 ⟨fun d hd => ?_, h⟩
      rcases List.mem_cons.1 hd with rfl | hd
      · exact hlt
      · exact Nat.lt_trans hlt (hk d hd)
    · split
      · next heq => exact List.pairwise_cons.2 ⟨fun d hd => heq ▸ hk d hd, hm⟩
      · refine List.pairwise_cons.2 ⟨fun d hd => ?_, ih hm⟩
        rcases mem_storeWrite hd with rfl | hd
        · simp only; omega
        · exact hk d hd

/-- A write at an existing address lists existing addresses only. -/
theorem Store.within_storeWrite {α : Type} {size : Nat} {m : Store α} (h : Store.within size m) {a : Nat}
    (ha : a < size) (v : α) : Store.within size (storeWrite m a v) := by
  intro c hc
  rcases mem_storeWrite hc with rfl | hc
  · exact ha
  · exact h c hc

/-- `writeCell` writes an existing address and answers nothing else. -/
theorem writeCell_ok {α : Type} {size : Nat} {m n : Store α} {a : Nat} {v : α} :
    writeCell size m a v = .ok n ↔ a < size ∧ n = storeWrite m a v := by
  unfold writeCell
  split <;> simp_all [eq_comm]

/-- `readCell` reads an existing address and answers nothing else. -/
theorem readCell_ok {α : Type} {size : Nat} {m : Store α} {a : Nat} {r : Option α} :
    readCell size m a = .ok r ↔ a < size ∧ r = storeRead m a := by
  unfold readCell
  split <;> simp_all [eq_comm]

/-! ### Little-endian accesses -/

/-- Byte `a` after `n` bytes of `v` were written from `o` up. -/
theorem storeRead_leWrite (n : Nat) (m : List Host.Cell) (o v a : Nat) :
    storeRead (leWrite m o n v) a =
      if o ≤ a ∧ a < o + n then some (BitVec.ofNat 8 (v / 2 ^ (8 * (a - o)))) else storeRead m a := by
  induction n generalizing m o v with
  | zero => simp only [leWrite]; rw [if_neg (by omega)]
  | succ n ih =>
    simp only [leWrite, ih, storeRead_storeWrite]
    by_cases h : a = o
    · subst h
      rw [if_neg (by omega), if_pos rfl, if_pos (by omega)]
      simp
    · by_cases h' : o + 1 ≤ a ∧ a < o + 1 + n
      · rw [if_pos h', if_pos (by omega), Nat.div_div_eq_div_mul, ← pow_add]
        congr 4
        omega
      · rw [if_neg h', if_neg h, if_neg (by omega)]

theorem Store.wf_leWrite (n : Nat) {m : List Host.Cell} (h : Store.wf m) (o v : Nat) :
    Store.wf (leWrite m o n v) := by
  induction n generalizing m o v with
  | zero => exact h
  | succ n ih => exact ih (Store.wf_storeWrite h _ _) _ _

theorem Store.within_leWrite (n : Nat) {size : Nat} {m : List Host.Cell} (h : Store.within size m) {o : Nat}
    (ho : o + n ≤ size) (v : Nat) : Store.within size (leWrite m o n v) := by
  induction n generalizing m o v with
  | zero => exact h
  | succ n ih => exact ih (Store.within_storeWrite h (by omega) _) (by omega) _

/-- A read of `n` bytes depends on those bytes alone. -/
theorem leRead_congr (n : Nat) {m m' : List Host.Cell} {o : Nat}
    (h : ∀ a, o ≤ a → a < o + n → storeRead m' a = storeRead m a) : leRead m' o n = leRead m o n := by
  induction n generalizing o with
  | zero => rfl
  | succ n ih =>
    simp only [leRead]
    rw [h o (Nat.le_refl _) (by omega), ih fun a h1 h2 => h a (by omega) (by omega)]

/-- Bytes that hold `v` little-endian are read back as `v`. -/
theorem leRead_eq (n : Nat) {m : List Host.Cell} {o v : Nat}
    (h : ∀ k, k < n → storeRead m (o + k) = some (BitVec.ofNat 8 (v / 2 ^ (8 * k)))) (hv : v < 2 ^ (8 * n)) :
    leRead m o n = some v := by
  induction n generalizing o v with
  | zero => simp only [leRead, Option.some.injEq]; omega
  | succ n ih =>
    have h0 := h 0 (by omega)
    have hr : leRead m (o + 1) n = some (v / 2 ^ 8) := by
      refine ih (fun k hk => ?_) ?_
      · rw [Nat.add_assoc, Nat.add_comm 1 k, h (k + 1) (by omega), Nat.div_div_eq_div_mul, ← pow_add]
        congr 4
        omega
      · rw [Nat.div_lt_iff_lt_mul (by norm_num), ← pow_add]
        exact hv
    simp only [Nat.add_zero, Nat.mul_zero, pow_zero, Nat.div_one] at h0
    simp only [leRead, h0, hr, BitVec.toNat_ofNat, Option.some.injEq]
    omega

/-- `vMemWrite` writes bytes that all exist and answers nothing else. -/
theorem vMemWrite_ok {c : VarConfig} {m n : List Host.Cell} {o k v : Nat} :
    vMemWrite c m o k v = .ok n ↔ o + k ≤ c.capacity ∧ n = leWrite m o k v := by
  unfold vMemWrite
  split <;> simp_all [eq_comm]

/-- `vMemRead` reads bytes that all exist and answers nothing else. -/
theorem vMemRead_ok {c : VarConfig} {m : List Host.Cell} {o k : Nat} {r : Option Nat} :
    vMemRead c m o k = .ok r ↔ o + k ≤ c.capacity ∧ r = leRead m o k := by
  unfold vMemRead
  split <;> simp_all [eq_comm]

/-- `writeHeader` writes the two words of a header whose eight bytes exist, and answers nothing else. -/
theorem writeHeader_ok {c : VarConfig} {m n : List Host.Cell} {o total info : Nat} :
    writeHeader c m o total info = .ok n ↔
      o + 8 ≤ c.capacity ∧ n = leWrite (leWrite m o 4 total) (o + 4) 4 info := by
  unfold writeHeader vMemWrite
  by_cases h : o + 4 ≤ c.capacity
  · by_cases h' : o + 4 + 4 ≤ c.capacity
    · simp only [h, h', if_true, Except.ok.injEq, true_and, eq_comm]
    · simp only [h, h', if_true, if_false, false_and, reduceCtorEq]
  · simp only [h, if_false, show ¬o + 8 ≤ c.capacity by omega, false_and, reduceCtorEq]

/-- A header depends on its eight bytes alone. -/
theorem hdrDecode_congr {c : VarConfig} {m m' : List Host.Cell} {o : Nat}
    (h : ∀ a, o ≤ a → a < o + 8 → storeRead m' a = storeRead m a) : hdrDecode c m' o = hdrDecode c m o := by
  have h0 : leRead m' o 4 = leRead m o 4 := leRead_congr 4 fun a h1 h2 => h a h1 (by omega)
  have h1 : leRead m' (o + 4) 4 = leRead m (o + 4) 4 :=
    leRead_congr 4 fun a h1 h2 => h a (by omega) (by omega)
  simp only [hdrDecode, vMemRead, h0, h1]

/-! ### Every write keeps the canonical form -/

theorem Store.wf_writeCell {α : Type} {size : Nat} {m n : Store α} {a : Nat} {v : α} (h : Store.wf m)
    (hw : writeCell size m a v = .ok n) : Store.wf n := by
  obtain ⟨-, rfl⟩ := writeCell_ok.1 hw
  exact Store.wf_storeWrite h _ _

theorem Store.wf_vMemWrite {c : VarConfig} {m n : List Host.Cell} {o k v : Nat} (h : Store.wf m)
    (hw : vMemWrite c m o k v = .ok n) : Store.wf n := by
  obtain ⟨-, rfl⟩ := vMemWrite_ok.1 hw
  exact Store.wf_leWrite _ h _ _

theorem Store.wf_writeHeader {c : VarConfig} {m n : List Host.Cell} {o total info : Nat} (h : Store.wf m)
    (hw : writeHeader c m o total info = .ok n) : Store.wf n := by
  obtain ⟨-, rfl⟩ := writeHeader_ok.1 hw
  exact Store.wf_leWrite _ (Store.wf_leWrite _ h _ _) _ _

theorem Store.wf_writeSentinel {c : VarConfig} {m n : List Host.Cell} {o : Nat} (h : Store.wf m)
    (hw : writeSentinel c m o = .ok n) : Store.wf n := Store.wf_writeHeader h hw

end Sys2Proof.Machine
end

