-- ==== Sys2Proof/Laws/Ops.lean ====
section
/-!
SUPPORT. What each shared operation and each command part can do, said once: if it answers, then one of these
cases. Proofs cite these and do not unfold the operations.
-/
namespace Sys2Proof.Machine

/-! ### Edges -/

/-- A write-domain edge of the fixed FIFO that answers `t`: not taken, faulting, or taken. -/
theorem fixedWEdge_next {s t : State} {w : Nat} {p : Except Stop (Fixed × FpResp)} :
    fixedWEdge s w p = .next t ↔
      (s.fixed.fault ≠ none ∧ t = s.putFixed s.fixed .none) ∨
      (s.fixed.fault = none ∧ ∃ code, p = .error (.record code) ∧
        t = s.putFixed (s.fixed.takeFault code .write w) .none) ∨
      (s.fixed.fault = none ∧ ∃ f r, p = .ok (f, r) ∧ t = s.putFixed (f.wTick s.fixed) (.fp r)) := by
  unfold fixedWEdge
  rcases s.fixed.fault with _ | r <;> rcases p with (c | a) | ⟨f, q⟩ <;> simp [eq_comm]

/-- A read-domain edge of the fixed FIFO that answers `t`. -/
theorem fixedREdge_next {s t : State} {w : Nat} {p : Except Stop (Fixed × FcResp)} :
    fixedREdge s w p = .next t ↔
      (s.fixed.fault ≠ none ∧ t = s.putFixed s.fixed .none) ∨
      (s.fixed.fault = none ∧ ∃ code, p = .error (.record code) ∧
        t = s.putFixed (s.fixed.takeFault code .read w) .none) ∨
      (s.fixed.fault = none ∧ ∃ f r, p = .ok (f, r) ∧ t = s.putFixed (f.rTick s.fixed) (.fc r)) := by
  unfold fixedREdge
  rcases s.fixed.fault with _ | r <;> rcases p with (c | a) | ⟨f, q⟩ <;> simp [eq_comm]

/-- A write-domain edge of the variable FIFO that answers `t`. -/
theorem varWEdge_next {s t : State} {w : Nat} {p : Except Stop (Variable × VpResp)} :
    varWEdge s w p = .next t ↔
      (s.var.fault ≠ none ∧ t = s.putVar s.var .none) ∨
      (s.var.fault = none ∧ ∃ code, p = .error (.record code) ∧
        t = s.putVar (s.var.takeFault code .write w) .none) ∨
      (s.var.fault = none ∧ ∃ v r, p = .ok (v, r) ∧ t = s.putVar (v.wTick s.var) (.vp r)) := by
  unfold varWEdge
  rcases s.var.fault with _ | r <;> rcases p with (c | a) | ⟨f, q⟩ <;> simp [eq_comm]

/-- A read-domain edge of the variable FIFO that answers `t`. -/
theorem varREdge_next {s t : State} {w : Nat} {p : Except Stop (Variable × VcResp)} :
    varREdge s w p = .next t ↔
      (s.var.fault ≠ none ∧ t = s.putVar s.var .none) ∨
      (s.var.fault = none ∧ ∃ code, p = .error (.record code) ∧
        t = s.putVar (s.var.takeFault code .read w) .none) ∨
      (s.var.fault = none ∧ ∃ v r, p = .ok (v, r) ∧ t = s.putVar (v.rTick s.var) (.vc r)) := by
  unfold varREdge
  rcases s.var.fault with _ | r <;> rcases p with (c | a) | ⟨f, q⟩ <;> simp [eq_comm]

/-! ### Command parts of the fixed-slot FIFO -/

/-- FP.NOP's part (R133). -/
theorem fpNopPart_ok {f g : Fixed} {r : FpResp} : fpNopPart f = .ok (g, r) ↔ g = f ∧ r = fpSilent := by
  simp [fpNopPart, eq_comm]

/-- FP.ALLOC's part (R134). -/
theorem fpAllocPart_ok {f g : Fixed} {r : FpResp} :
    fpAllocPart f = .ok (g, r) ↔
      ((f.tail + 1) % f.cfg.slots ≠ f.headW ∧ g = { f with resv := true } ∧ r = fpReserved f.tail) ∨
      ((f.tail + 1) % f.cfg.slots = f.headW ∧ g = f ∧ r = fpNotReady) := by
  unfold fpAllocPart
  split <;> simp_all [eq_comm]

/-- FP.WRITE's part (R135). -/
theorem fpWritePart_ok {f g : Fixed} {d : Nat} {r : FpResp} :
    fpWritePart f d = .ok (g, r) ↔
      f.resv = true ∧ f.tail < f.cfg.slots ∧ g = { f with mem := storeWrite f.mem f.tail d } ∧ r = fpSilent := by
  unfold fpWritePart writeCell
  cases f.resv <;> by_cases h : f.tail < f.cfg.slots <;> simp [h, eq_comm]

/-- FP.PUSH's part (R136). -/
theorem fpPushPart_ok {f g : Fixed} {r : FpResp} :
    fpPushPart f = .ok (g, r) ↔
      f.resv = true ∧ g = { f with tail := (f.tail + 1) % f.cfg.slots, resv := false } ∧ r = fpSilent := by
  unfold fpPushPart
  cases f.resv <;> simp [eq_comm]

/-- FC.NOP's part (R137). -/
theorem fcNopPart_ok {f g : Fixed} {r : FcResp} : fcNopPart f = .ok (g, r) ↔ g = f ∧ r = fcSilent := by
  simp [fcNopPart, eq_comm]

/-- FC.FRONT's part (R138). -/
theorem fcFrontPart_ok {f g : Fixed} {r : FcResp} :
    fcFrontPart f = .ok (g, r) ↔
      g = f ∧ ((f.head = f.tailR ∧ r = fcNotReady) ∨
        (f.head ≠ f.tailR ∧ f.head < f.cfg.slots ∧
          ∃ d, storeRead f.mem f.head = some d ∧ r = fcShown f.head d)) := by
  unfold fcFrontPart readCell
  by_cases h : f.head = f.tailR
  · simp [h, eq_comm]
  · by_cases h' : f.head < f.cfg.slots
    · cases storeRead f.mem f.head <;> simp [h, h', eq_comm]
    · simp [h, h']

/-- FC.POP's part (R139). -/
theorem fcPopPart_ok {f g : Fixed} {r : FcResp} :
    fcPopPart f = .ok (g, r) ↔
      f.head ≠ f.tailR ∧ g = { f with head := (f.head + 1) % f.cfg.slots } ∧ r = fcSilent := by
  unfold fcPopPart
  split <;> simp_all [eq_comm]

/-! ### Command parts of the variable-length FIFO -/

/-- VP.NOP's part (R185). -/
theorem vpNopPart_ok {v w : Variable} {r : VpResp} : vpNopPart v = .ok (w, r) ↔ w = v ∧ r = vpSilent := by
  simp [vpNopPart, eq_comm]

/-- VP.ALLOC's part (R186). -/
theorem vpAllocPart_ok {v w : Variable} {len : Nat} {r : VpResp} :
    vpAllocPart v len = .ok (w, r) ↔
      (vPlace v len = none ∧ w = v ∧ r = vpNotReady) ∨
      (∃ p m, vPlace v len = some p ∧ allocMem v p len = .ok m ∧
        w = { v with mem := m, resv := true, resvOff := p.off, resvTotal := p.total, resvLen := len } ∧
        r = vpReserved p.off) := by
  unfold vpAllocPart
  rcases vPlace v len with _ | p
  · simp [eq_comm]
  · rcases h : allocMem v p len with e | m
    · simp [h]
    · simp [h, eq_comm]

/-- The storage VP.ALLOC leaves: its header, after a sentinel at `v_tail` if it wraps (R186). -/
theorem allocMem_ok {v : Variable} {p : Placement} {len : Nat} {n : List Host.Cell} :
    allocMem v p len = .ok n ↔
      ∃ m, (if p.wrap then writeSentinel v.cfg v.mem v.tail else .ok v.mem) = .ok m ∧
        writeHeader v.cfg m p.off p.total len = .ok n := by
  unfold allocMem
  rcases (if p.wrap then writeSentinel v.cfg v.mem v.tail else .ok v.mem) with e | m <;> simp

/-- The storage VP.ALLOC leaves is canonical. -/
theorem Store.wf_allocMem {v : Variable} {p : Placement} {len : Nat} {n : List Host.Cell} (h : Store.wf v.mem)
    (ha : allocMem v p len = .ok n) : Store.wf n := by
  obtain ⟨m, hm, hn⟩ := allocMem_ok.1 ha
  refine Store.wf_writeHeader ?_ hn
  split at hm
  · exact Store.wf_writeSentinel h hm
  · cases hm; exact h

/-- VP.WRITE's part (R187). -/
theorem vpWritePart_ok {v w : Variable} {off : Nat} {b : Byte} {r : VpResp} :
    vpWritePart v off b = .ok (w, r) ↔
      v.resv = true ∧ off < v.resvLen ∧ payloadAddr v.resvOff off < v.cfg.capacity ∧
      w = { v with mem := storeWrite v.mem (payloadAddr v.resvOff off) b } ∧ r = vpSilent := by
  unfold vpWritePart writeCell
  by_cases h : v.resvLen ≤ off
  · cases v.resv <;> simp [h, Nat.not_lt.2 h]
  · cases v.resv <;> by_cases h' : payloadAddr v.resvOff off < v.cfg.capacity <;>
      simp [h, h', Nat.not_le.1 h, eq_comm]

/-- VP.PUSH's part (R188). -/
theorem vpPushPart_ok {v w : Variable} {r : VpResp} :
    vpPushPart v = .ok (w, r) ↔
      v.resv = true ∧ w = { v with tail := (v.resvOff + v.resvTotal) % v.cfg.capacity, resv := false } ∧
      r = vpSilent := by
  unfold vpPushPart
  cases v.resv <;> simp [eq_comm]

/-- VC.NOP's part (R189). -/
theorem vcNopPart_ok {v w : Variable} {r : VcResp} : vcNopPart v = .ok (w, r) ↔ w = v ∧ r = vcSilent := by
  simp [vcNopPart, eq_comm]

/-- VC.FRONT's part (R190). -/
theorem vcFrontPart_ok {v w : Variable} {r : VcResp} :
    vcFrontPart v = .ok (w, r) ↔
      w = v ∧ ((vFrontView v = .ok none ∧ r = vcNotReady) ∨
        ∃ m, vFrontView v = .ok (some m) ∧ r = vcShown m) := by
  unfold vcFrontPart
  rcases vFrontView v with e | _ | m <;> simp [eq_comm]

/-- VC.READ's part (R191). -/
theorem vcReadPart_ok {v w : Variable} {off : Nat} {r : VcResp} :
    vcReadPart v off = .ok (w, r) ↔
      w = v ∧ ∃ m b, vFrontView v = .ok (some m) ∧ off < m.len ∧
        payloadAddr m.off off < v.cfg.capacity ∧
        storeRead v.mem (payloadAddr m.off off) = some b ∧ r = vcByte b := by
  unfold vcReadPart readCell
  rcases vFrontView v with e | _ | m
  · simp
  · simp
  · by_cases h : m.len ≤ off
    · simp [h]
    · by_cases h' : payloadAddr m.off off < v.cfg.capacity
      · rcases hb : storeRead v.mem (payloadAddr m.off off) with _ | b <;> simp [h, h', hb, Nat.not_le.1 h, eq_comm]
      · simp [h, h']

/-- VC.POP's part (R192). -/
theorem vcPopPart_ok {v w : Variable} {r : VcResp} :
    vcPopPart v = .ok (w, r) ↔
      ∃ m, vFrontView v = .ok (some m) ∧
        w = { v with head := (m.off + m.total) % v.cfg.capacity } ∧ r = vcSilent := by
  unfold vcPopPart
  rcases vFrontView v with e | _ | m <;> simp [eq_comm]

/-! ### Reset keeps storage -/

/-- `Reset` changes no storage, so it keeps the canonical form (70_reset_and_hazards.md R302). -/
theorem Fixed.wf_doReset {f : Fixed} (h : Store.wf f.mem) : Store.wf f.doReset.mem := h

theorem Variable.wf_doReset {v : Variable} (h : Store.wf v.mem) : Store.wf v.doReset.mem := h

/-- The storage of the state after reset is canonical. -/
theorem State.reset_wf : Store.wf State.reset.fixed.mem ∧ Store.wf State.reset.var.mem := by decide

/-! ### The step -/

/-- What a step that answers `t` did: nothing presented, a reset, or a command. -/
theorem step_next {s t : State} (h : step s = .next t) :
    (s.pending = [] ∧ t = s) ∨
    (∃ kind rest, s.pending = .reset kind :: rest ∧ resetStep { s with pending := rest } kind = .next t) ∨
    (∃ port w rest i, s.pending = .edge port w :: rest ∧ decode s.fixed.cfg s.var.cfg port w = .ok i ∧
      exec i { s with pending := rest } = .next t) := by
  unfold step at h
  split at h
  · next hp => exact .inl ⟨hp, by simpa using h.symm⟩
  · next kind rest hp => exact .inr (.inl ⟨kind, rest, hp, h⟩)
  · next port w rest hp =>
    split at h
    · next i hi => exact .inr (.inr ⟨port, w, rest, i, hp, hi, h⟩)
    · cases h

end Sys2Proof.Machine
end

