-- ==== Sys2Proof/Laws/PerInstr.lean ====
section
/-!
SUPPORT. Statements made of each command, one lemma per constructor: the word of a well-formed command fits
its port's word (30_encoding.md R101 to R104).
-/
namespace Sys2Proof.Laws

/-- The word of the command fits the word of its port. -/
def WordFits.Statement (i : Instr) : Prop :=
  ∀ (fc : FixedConfig) (vc : VarConfig),
    i.WellFormed fc vc → encode vc i < 2 ^ Machine.portWidth fc vc i.port

/-- An op in two bits under a field of `n` bits makes a word of `n + 2` bits. -/
theorem op_field_lt {n op x : Nat} (ho : op < 4) (hx : x < 2 ^ n) : op + 2 ^ 2 * x < 2 ^ (n + 2) := by
  rw [pow_add]
  omega

/-- The word VPW of an `a` in L bits has L + 10 bits. -/
theorem vpWord_lt {vc : VarConfig} {op a : Nat} (ho : op < 4) (ha : a < 2 ^ vc.l) (b : Byte) :
    Machine.vpWord vc op a b < 2 ^ (vc.l + 10) := by
  have h := op_field_lt ho ha
  have hb := b.isLt
  have hm : 2 ^ (vc.l + 2) * b.toNat ≤ 2 ^ (vc.l + 2) * 255 := Nat.mul_le_mul_left _ (by omega)
  rw [Machine.vpWord, show vc.l + 10 = vc.l + 2 + 8 by omega, pow_add _ (vc.l + 2) 8]
  omega

theorem WordFits.fpNop (data : Nat) : WordFits.Statement (.fpNop data) :=
  fun _ _ h => op_field_lt (by decide) h

theorem WordFits.fpAlloc (data : Nat) : WordFits.Statement (.fpAlloc data) :=
  fun _ _ h => op_field_lt (by decide) h

theorem WordFits.fpWrite (data : Nat) : WordFits.Statement (.fpWrite data) :=
  fun _ _ h => op_field_lt (by decide) h

theorem WordFits.fpPush (data : Nat) : WordFits.Statement (.fpPush data) :=
  fun _ _ h => op_field_lt (by decide) h

theorem WordFits.fcNop : WordFits.Statement .fcNop := fun _ _ _ => by simp [encode, Machine.fcWord, Machine.portWidth, Instr.port]

theorem WordFits.fcFront : WordFits.Statement .fcFront := fun _ _ _ => by simp [encode, Machine.fcWord, Machine.portWidth, Instr.port]

theorem WordFits.fcPop : WordFits.Statement .fcPop := fun _ _ _ => by simp [encode, Machine.fcWord, Machine.portWidth, Instr.port]

theorem WordFits.fcReserved : WordFits.Statement .fcReserved := fun _ _ _ => by simp [encode, Machine.fcWord, Machine.portWidth, Instr.port]

theorem WordFits.vpNop (a : Nat) (b : Byte) : WordFits.Statement (.vpNop a b) :=
  fun _ _ h => vpWord_lt (by decide) h b

theorem WordFits.vpAlloc (len : Nat) (b : Byte) : WordFits.Statement (.vpAlloc len b) :=
  fun _ _ h => vpWord_lt (by decide) h b

theorem WordFits.vpWrite (off : Nat) (b : Byte) : WordFits.Statement (.vpWrite off b) :=
  fun _ _ h => vpWord_lt (by decide) h b

theorem WordFits.vpPush (a : Nat) (b : Byte) : WordFits.Statement (.vpPush a b) :=
  fun _ _ h => vpWord_lt (by decide) h b

theorem WordFits.vcNop (a : Nat) : WordFits.Statement (.vcNop a) :=
  fun _ _ h => op_field_lt (by decide) h

theorem WordFits.vcFront (a : Nat) : WordFits.Statement (.vcFront a) :=
  fun _ _ h => op_field_lt (by decide) h

theorem WordFits.vcRead (off : Nat) : WordFits.Statement (.vcRead off) :=
  fun _ _ h => op_field_lt (by decide) h

theorem WordFits.vcPop (a : Nat) : WordFits.Statement (.vcPop a) :=
  fun _ _ h => op_field_lt (by decide) h

end Sys2Proof.Laws
end

