-- ==== Sys2Proof/Tests/Slice0.lean ====
section
/-!
SUPPORT. Named tests. Expected values come from 95_test_vectors.md (the vector's name stands at each test) or
from the encoding tables of 30_encoding.md by hand. The witnesses at the end show, for each statement with
hypotheses, a concrete state and operands that meet them.
-/
namespace Sys2Proof.Tests
open Sys2Proof.Machine

/-- The next state of an outcome. -/
def nextOf (o : Host.Outcome State Fault Refusal) : Option State :=
  match o with
  | .next s => some s
  | _ => none

/-- A fixed-slot instance with N = 4 and the given pointers and views, its published pointers caught up. -/
def mkFixed (tail : Nat) (resv : Bool) (headW head tailR : Nat) (mem : Store Nat) : Fixed :=
  { cfg := fixedExample, tail := tail, resv := resv, wpub := tail, wgray := bin2gray tail,
    rsync := [bin2gray headW, bin2gray headW], head := head, rpub := head, rgray := bin2gray head,
    wsync := [bin2gray tailR, bin2gray tailR], mem := mem, fault := none }

/-- A variable-length instance with C = 512, B = 8 and the given pointers and views in bytes, its published
pointers caught up; the reservation is `(off, total, len)`. -/
def mkVar (tail : Nat) (resv : Bool) (off total len headW head tailR : Nat) (mem : List Host.Cell) : Variable :=
  { cfg := varExample, tail := tail, resv := resv, resvOff := off, resvTotal := total, resvLen := len,
    wpub := tail / 8, wgray := bin2gray (tail / 8),
    rsync := [bin2gray (headW / 8), bin2gray (headW / 8)], head := head, rpub := head / 8,
    rgray := bin2gray (head / 8), wsync := [bin2gray (tailR / 8), bin2gray (tailR / 8)], mem := mem,
    fault := none }

def withF (f : Fixed) : State := { State.reset with fixed := f }
def withV (v : Variable) : State := { State.reset with var := v }

/-! ### Well-formedness: one ill-formed command for each check -/

theorem test_illformed_fpNop : ¬ Instr.WellFormed fixedExample varExample (.fpNop 256) := by decide
theorem test_illformed_fpAlloc : ¬ Instr.WellFormed fixedExample varExample (.fpAlloc 256) := by decide
theorem test_illformed_fpWrite : ¬ Instr.WellFormed fixedExample varExample (.fpWrite 256) := by decide
theorem test_illformed_fpPush : ¬ Instr.WellFormed fixedExample varExample (.fpPush 256) := by decide
theorem test_illformed_vpNop : ¬ Instr.WellFormed fixedExample varExample (.vpNop 512 0) := by decide
theorem test_illformed_vpAlloc : ¬ Instr.WellFormed fixedExample varExample (.vpAlloc 512 0) := by decide
theorem test_illformed_vpWrite : ¬ Instr.WellFormed fixedExample varExample (.vpWrite 512 0) := by decide
theorem test_illformed_vpPush : ¬ Instr.WellFormed fixedExample varExample (.vpPush 512 0) := by decide
theorem test_illformed_vcNop : ¬ Instr.WellFormed fixedExample varExample (.vcNop 512) := by decide
theorem test_illformed_vcFront : ¬ Instr.WellFormed fixedExample varExample (.vcFront 512) := by decide
theorem test_illformed_vcRead : ¬ Instr.WellFormed fixedExample varExample (.vcRead 512) := by decide
theorem test_illformed_vcPop : ¬ Instr.WellFormed fixedExample varExample (.vcPop 512) := by decide

/-! ### Decoding words written out from 30_encoding.md R101 to R104, R111 (95 V-E-1, V-E-2) -/

/-- 95 V-E-2. -/
theorem test_decode_fpNop : decode fixedExample varExample .fp 0x3FC = .ok (.fpNop 0xFF) := by decide
/-- 95 V-E-1. -/
theorem test_decode_fpAlloc : decode fixedExample varExample .fp 0x001 = .ok (.fpAlloc 0) := by decide
/-- 95 V-E-1. -/
theorem test_decode_fpWrite : decode fixedExample varExample .fp 0x112 = .ok (.fpWrite 0x44) := by decide
/-- 95 V-E-1. -/
theorem test_decode_fpPush : decode fixedExample varExample .fp 0x003 = .ok (.fpPush 0) := by decide
/-- 95 V-E-1. -/
theorem test_decode_fcNop : decode fixedExample varExample .fc 0x0 = .ok (.fcNop) := by decide
/-- 95 V-E-1. -/
theorem test_decode_fcFront : decode fixedExample varExample .fc 0x1 = .ok (.fcFront) := by decide
/-- 95 V-E-1. -/
theorem test_decode_fcPop : decode fixedExample varExample .fc 0x2 = .ok (.fcPop) := by decide
/-- 95 V-E-1. -/
theorem test_decode_fcReserved : decode fixedExample varExample .fc 0x3 = .ok (.fcReserved) := by decide
/-- 95 V-E-1. -/
theorem test_decode_vpNop : decode fixedExample varExample .vp 0x00000 = .ok (.vpNop 0 0) := by decide
/-- 95 V-E-1. -/
theorem test_decode_vpAlloc : decode fixedExample varExample .vp 0x007A1 = .ok (.vpAlloc 488 0) := by decide
/-- 95 V-E-1. -/
theorem test_decode_vpWrite : decode fixedExample varExample .vp 0x5DF9E = .ok (.vpWrite 487 0xBB) := by decide
/-- 95 V-E-2. -/
theorem test_decode_vpPush : decode fixedExample varExample .vp 0x7FFFF = .ok (.vpPush 511 0xFF) := by decide
/-- 95 V-E-1. -/
theorem test_decode_vcNop : decode fixedExample varExample .vc 0x000 = .ok (.vcNop 0) := by decide
/-- 95 V-E-2. -/
theorem test_decode_vcFront : decode fixedExample varExample .vc 0x7FD = .ok (.vcFront 511) := by decide
/-- 95 V-E-1. -/
theorem test_decode_vcRead : decode fixedExample varExample .vc 0x79E = .ok (.vcRead 487) := by decide
/-- 95 V-E-1. -/
theorem test_decode_vcPop : decode fixedExample varExample .vc 0x003 = .ok (.vcPop 0) := by decide

/-- 30_encoding.md R114: an FC word has two bits. -/
theorem test_decode_too_wide : decode fixedExample varExample .fc 4 = .error (.wordTooWide .fc) := by decide

/-- 95 V-E-1, the other direction. -/
theorem test_encode_vpWrite : encode varExample (.vpWrite 99 0x5A) = 0x2D18E := by decide

/-- The host's question about the row FP.WRITE, and its step from reset: fault 1, as V-X-1. -/
theorem test_table_word : decodeTableWord 8 0x2 = some (.fpWrite 0) := by decide
theorem test_fetch_word :
    (nextOf (step (State.reset.withFetchWord 8 0x2))).map (fun t => (t.fixed.fault, t.pending)) =
      some (some ⟨.fWriteNoResv, .write, 2⟩, []) := by decide

/-! ### Gray code, publishing, rounding -/

/-- 95 V-G-1. -/
theorem test_gray_code : (List.range 8).map bin2gray = [0, 1, 3, 2, 6, 7, 5, 4] := by decide
/-- 95 V-G-2. -/
theorem test_gray_decode : [0x09, 0x1B, 0x10, 0x30, 0x21, 0x20].map (gray2bin 6) = [14, 18, 31, 32, 62, 63] := by
  decide
/-- 95 V-G-4. -/
theorem test_publish_step :
    [publishStep 0 0 4, publishStep 0 1 4, publishStep 3 0 4, publishStep 0 62 64, publishStep 63 14 64,
      publishStep 13 14 64] = [0, 1, 0, 1, 0, 14] := by decide
/-- 95 V-V-1. -/
theorem test_totals :
    [0, 1, 8, 9, 100, 488, 489, 496, 497, 511].map (totalOf varExample) =
      [8, 16, 16, 24, 112, 496, 504, 504, 512, 520] := by decide
/-- 95 V-V-3: contiguous to the end, strict at the head, wrapped, refused. -/
theorem test_placement :
    [vPlaceAt varExample 8 8 496, vPlaceAt varExample 504 0 0, vPlaceAt varExample 504 120 100,
      vPlaceAt varExample 504 112 100, vPlaceAt varExample 16 64 40, vPlaceAt varExample 16 64 32] =
      [some ⟨8, 504, false⟩, none, some ⟨0, 112, true⟩, none, none, some ⟨16, 40, false⟩] := by decide

/-! ### Reset (95 V-Z-1, V-Z-3) -/

theorem test_reset_outputs :
    (State.reset.fixed.wfull, State.reset.fixed.rempty, State.reset.fixed.wresv, State.reset.var.rempty,
      State.reset.var.wresv, faultOutput State.reset.fixed.fault) =
      (false, true, false, some true, false, (false, 0)) := by decide
theorem test_reset_keeps_storage :
    (nextOf (step { withF (mkFixed 0 false 1 1 3 [(0, 0x11), (1, 0x22)]) with
      pending := [.reset .fixedSlot] })).map (fun t => (t.fixed.head, t.fixed.mem, t.fixed.rempty)) =
      some (0, [(0, 0x11), (1, 0x22)], true) := by decide

/-! ### Commands of the fixed-slot FIFO (95 section 4) -/

/-- V-G-5 w4: an idle edge publishes, here from `f_tail = 1`, `f_wpub = 0`. -/
theorem test_fpNop_publishes :
    (nextOf (exec (.fpNop 0) (withF { mkFixed 1 false 0 0 0 [] with wpub := 0, wgray := 0 }))).map
      (fun t => (t.fixed.tail, t.fixed.wpub, t.fixed.wgray)) = some (1, 1, 1) := by decide
/-- V-F-5. -/
theorem test_fpAlloc_reserves :
    (nextOf (exec (.fpAlloc 0) (withF (mkFixed 3 false 1 1 3 [])))).map (fun t => (t.fixed.resv, t.resp)) =
      some (true, .fp ⟨some true, some 3⟩) := by decide
/-- V-F-6. -/
theorem test_fpAlloc_full :
    (nextOf (exec (.fpAlloc 0) (withF (mkFixed 0 false 1 1 0 [])))).map (fun t => (t.fixed.resv, t.resp)) =
      some (false, .fp ⟨some false, none⟩) := by decide
/-- V-F-9. -/
theorem test_fpWrite_last_wins :
    (nextOf (exec (.fpWrite 0xFF) (withF (mkFixed 2 true 0 0 2 [(2, 0x33)])))).map (fun t => t.fixed.mem) =
      some [(2, 0xFF)] := by decide
/-- V-F-10. -/
theorem test_fpWrite_no_reservation :
    (nextOf (exec (.fpWrite 0x33) (withF (mkFixed 2 false 0 0 2 [])))).map (fun t => (t.fixed.fault, t.fixed.mem)) =
      some (some ⟨.fWriteNoResv, .write, 0x0CE⟩, []) := by decide
/-- V-F-11. -/
theorem test_fpPush_wraps :
    (nextOf (exec (.fpPush 0) (withF (mkFixed 3 true 1 1 3 [])))).map (fun t => (t.fixed.tail, t.fixed.resv)) =
      some (0, false) := by decide
/-- V-F-13. -/
theorem test_fpPush_no_reservation :
    (nextOf (exec (.fpPush 0) (withF (mkFixed 1 false 0 0 1 [])))).map (fun t => (t.fixed.tail, t.fixed.fault)) =
      some (1, some ⟨.fPushNoResv, .write, 3⟩) := by decide
/-- V-G-5 r2: stage 0 takes the sample, stage 1 the old stage 0. -/
theorem test_fcNop_shifts :
    (nextOf (exec .fcNop (withF { mkFixed 1 false 0 0 0 [] with wsync := [0, 0] }))).map (fun t => t.fixed.wsync) =
      some [1, 0] := by decide
/-- V-F-17. -/
theorem test_fcFront_shows :
    (nextOf (exec .fcFront (withF (mkFixed 1 false 3 3 1 [(3, 0x44)])))).map (fun t => (t.fixed.head, t.resp)) =
      some (3, .fc ⟨some true, some 3, some 0x44⟩) := by decide
/-- V-F-18. -/
theorem test_fcFront_unwritten :
    (nextOf (exec .fcFront (withF (mkFixed 2 false 1 1 2 [])))).map (fun t => (t.fixed.fault, t.resp)) =
      some (some ⟨.fReadUnwritten, .read, 1⟩, .none) := by decide
/-- V-F-19. -/
theorem test_fcPop_wraps :
    (nextOf (exec .fcPop (withF (mkFixed 0 false 3 3 0 [])))).map (fun t => (t.fixed.head, t.fixed.fault)) =
      some (0, none) := by decide
/-- V-F-21. -/
theorem test_fcPop_empty :
    (nextOf (exec .fcPop (withF (mkFixed 2 false 2 2 2 [])))).map (fun t => (t.fixed.head, t.fixed.fault)) =
      some (2, some ⟨.fPopEmpty, .read, 2⟩) := by decide
/-- V-F-22. -/
theorem test_fcReserved :
    (nextOf (exec .fcReserved (withF (mkFixed 2 false 2 2 2 [])))).map (fun t => t.fixed.fault) =
      some (some ⟨.fReservedCmd, .read, 3⟩) := by decide

/-! ### Commands of the variable-length FIFO (95 section 5) -/

/-- Section 5's states V-V-4h and V-V-4i: a sentinel at 504, MSG(112, 100) at 0, `v_mem[107] = 0x5A`. -/
def wrapMem : List Host.Cell :=
  [(0, 0x70), (1, 0), (2, 0), (3, 0), (4, 0x64), (5, 0), (6, 0), (7, 0), (107, 0x5A),
    (504, 8), (505, 0), (506, 0), (507, 0), (508, 0), (509, 0), (510, 0), (511, 0x80)]

/-- P3 w76: the published pointer moves one block across the wrap. -/
theorem test_vpNop_publishes :
    (nextOf (exec (.vpNop 0 0) (withV { mkVar 112 false 0 112 100 504 504 504 [] with wpub := 63 }))).map
      (fun t => (t.var.tail, t.var.wpub, t.var.wgray)) = some (112, 0, 0) := by decide
/-- V-V-5c: sentinel and header bytes. -/
theorem test_vpAlloc_wraps :
    (nextOf (exec (.vpAlloc 100 0) (withV (mkVar 504 false 0 0 0 504 504 504 [])))).map
      (fun t => (t.resp, t.var.tail, t.var.resv, t.var.resvOff, t.var.resvTotal, t.var.resvLen)) =
      some (.vp ⟨some true, some 0⟩, 504, true, 0, 112, 100) ∧
    (nextOf (exec (.vpAlloc 100 0) (withV (mkVar 504 false 0 0 0 504 504 504 [])))).map (fun t => t.var.mem) =
      some [(0, 0x70), (1, 0), (2, 0), (3, 0), (4, 0x64), (5, 0), (6, 0), (7, 0),
          (504, 8), (505, 0), (506, 0), (507, 0), (508, 0), (509, 0), (510, 0), (511, 0x80)] := by decide
/-- V-V-5d. -/
theorem test_vpAlloc_refused :
    (nextOf (exec (.vpAlloc 488 0) (withV (mkVar 496 false 0 496 488 0 0 0 [])))).map
      (fun t => (t.resp, t.var.resv, t.var.mem)) = some (.vp ⟨some false, none⟩, false, []) := by decide
/-- V-V-5e. -/
theorem test_vpWrite_stores :
    (nextOf (exec (.vpWrite 99 0x5A) (withV (mkVar 504 true 0 112 100 504 504 504 [])))).map (fun t => t.var.mem) =
      some [(107, 0x5A)] := by decide
/-- V-X-7a: code 7, not 6. -/
theorem test_vpWrite_range :
    (nextOf (exec (.vpWrite 0 0x41) (withV (mkVar 0 true 0 8 0 0 0 0 [])))).map (fun t => t.var.fault) =
      some (some ⟨.vWriteRange, .write, 0x20802⟩) := by decide
/-- V-V-5h. -/
theorem test_vpPush_ends_at_capacity :
    (nextOf (exec (.vpPush 0 0) (withV (mkVar 504 true 504 8 0 8 8 8 [])))).map
      (fun t => (t.var.tail, t.var.resv, t.var.resvOff)) = some (0, false, 504) := by decide
/-- V-X-8. -/
theorem test_vpPush_no_reservation :
    (nextOf (exec (.vpPush 0 0) State.reset)).map (fun t => (t.var.tail, t.var.fault)) =
      some (0, some ⟨.vPushNoResv, .write, 3⟩) := by decide
/-- P3 r11 to r13: the read pointer walks after the head. -/
theorem test_vcNop_publishes :
    (nextOf (exec (.vcNop 0) (withV { mkVar 504 false 0 0 0 0 504 504 [] with rpub := 3 }))).map
      (fun t => (t.var.head, t.var.rpub, t.var.rgray)) = some (504, 4, 6) := by decide
/-- V-V-5j. -/
theorem test_vcFront_skips_sentinel :
    (nextOf (exec (.vcFront 0) (withV (mkVar 112 false 0 112 100 504 504 112 wrapMem)))).map
      (fun t => (t.resp, t.var.head)) =
      some (.vc ⟨some true, some 0, some 112, some 100, none⟩, 504) := by decide
/-- V-V-4h: partly published. -/
theorem test_vcFront_partial :
    (nextOf (exec (.vcFront 0) (withV (mkVar 112 false 0 112 100 504 504 104 wrapMem)))).map (fun t => t.resp) =
      some (.vc ⟨some false, none, none, none, none⟩) := by decide
/-- V-V-5k. -/
theorem test_vcRead_byte :
    (nextOf (exec (.vcRead 99) (withV (mkVar 112 false 0 112 100 504 504 112 wrapMem)))).map (fun t => t.resp) =
      some (.vc ⟨none, none, none, none, some 0x5A⟩) := by decide
/-- The last paragraph of section 6: code 13, not 9. -/
theorem test_vcRead_bad_header :
    (nextOf (exec (.vcRead 0) (withV (mkVar 8 false 0 0 0 0 0 8 [])))).map (fun t => t.var.fault) =
      some (some ⟨.vHeaderInvalid, .read, 2⟩) := by decide
/-- V-V-5l. -/
theorem test_vcPop_skips_sentinel :
    (nextOf (exec (.vcPop 0) (withV (mkVar 112 false 0 112 100 504 504 112 wrapMem)))).map (fun t => t.var.head) =
      some 112 := by decide
/-- V-V-5m. -/
theorem test_vcPop_partial :
    (nextOf (exec (.vcPop 0) (withV (mkVar 112 false 0 112 100 504 504 104 wrapMem)))).map (fun t => t.var.fault) =
      some (some ⟨.vPopEmpty, .read, 3⟩) := by decide

/-! ### Witnesses: states and operands that meet the hypotheses of each statement -/

/-- A settled fixed FIFO with one element and a reservation held. -/
def wF : Fixed := mkFixed 1 true 0 0 1 [(0, 0x11)]
/-- A full fixed FIFO: 95 P1 after w18. -/
def wFull : Fixed := { mkFixed 0 false 1 1 3 [(0, 0x11), (1, 0x22), (2, 0x33), (3, 0x44)] with wpub := 3, wgray := 2 }
/-- A variable FIFO's configuration with C = 32, B = 8. -/
def smallVar : VarConfig := { l := 5, k := 3, stages := 2, legal := by decide }
/-- MSG(16, 5) at 0 with its first byte, MSG(8, 0) at 16. -/
def wMem : List Host.Cell :=
  [(0, 0x10), (1, 0), (2, 0), (3, 0), (4, 5), (5, 0), (6, 0), (7, 0), (8, 0x48),
    (16, 8), (17, 0), (18, 0), (19, 0), (20, 0), (21, 0), (22, 0), (23, 0)]
/-- A settled variable FIFO with one message and a reservation held. -/
def wV : Variable := { mkVar 16 true 16 8 0 0 0 16 wMem with cfg := smallVar }
/-- An empty variable FIFO holding a reservation of five payload bytes. -/
def wVr : Variable := { mkVar 0 true 0 16 5 0 0 0 wMem with cfg := smallVar }
/-- Both. -/
def wS : State := { fixed := wF, var := wV, pending := [], resp := .none }

theorem witness_fixed_inv : wF.Inv ∧ wF.PublishedNear ∧ wF.Settled ∧ wF.fault = none ∧ wF.resv = true ∧
    wF.head ≠ wF.tail ∧ wF.head ≠ wF.tailR := by decide
theorem witness_fixed_full : wFull.Inv ∧ (wFull.tail + 1) % wFull.cfg.slots = wFull.head := by decide
theorem witness_fixed_empty : (Fixed.powerUp fixedExample).Inv ∧
    (Fixed.powerUp fixedExample).head = (Fixed.powerUp fixedExample).tail := by decide
theorem witness_var_inv : wV.Inv := by decide
theorem witness_var_settled : wV.Settled ∧ wV.fault = none ∧ wV.resv = true := by decide
theorem witness_var_reserved : wVr.Inv := by decide
theorem witness_var_empty : (Variable.powerUp smallVar).Inv ∧
    (Variable.powerUp smallVar).head = (Variable.powerUp smallVar).tail := by decide
theorem witness_inv : wS.Inv := ⟨witness_fixed_inv.1, witness_var_inv⟩

theorem witness_DecodeOfEncode :
    Instr.WellFormed fixedExample varExample (.fpWrite 255) ∧
    Instr.WellFormed fixedExample varExample (.vpWrite 511 0xFF) := by decide
theorem witness_EncodeOfDecode : decode fixedExample varExample .vp 0x7FFFF = .ok (.vpPush 511 0xFF) := by decide
theorem witness_EveryPortWord :
    0x7FFFF < 2 ^ portWidth fixedExample varExample .vp ∧
    2 ^ portWidth fixedExample varExample .vp ≤ 0x80000 := by decide
theorem witness_StepRuns :
    ({ State.reset with pending := [.edge .vp 0x191] } : State).pending = .edge .vp 0x191 :: [] ∧
    decode State.reset.fixed.cfg State.reset.var.cfg .vp 0x191 = .ok (.vpAlloc 100 0) := by decide
theorem witness_Reset :
    ({ wS with pending := [.reset .fixedSlot] } : State).pending = .reset .fixedSlot :: [] ∧
    ({ wS with pending := [.reset .variableLength] } : State).pending = .reset .variableLength :: [] := by decide
/-- The largest length of the clause about VP.ALLOC. -/
theorem witness_FirstResponses :
    ∃ s : State, s = { fixed := wF.doReset, var := wV.doReset, pending := [], resp := .none } ∧
      roundup (8 + 16) wV.cfg.block ≤ wV.cfg.capacity - wV.cfg.block := ⟨_, rfl, by decide⟩
/-- The hypotheses of the statements about NOP, FP.ALLOC, FP.WRITE, FP.PUSH and FC op 11: both cases of each. -/
theorem witness_fixed_producer :
    wS.fixed.fault = none ∧ wS.var.fault = none ∧ wS.fixed.resv = true ∧
    wS.fixed.tail < wS.fixed.cfg.slots ∧ State.reset.fixed.fault = none ∧ State.reset.fixed.resv = false ∧
    (wF.tail + 1) % 2 ^ wF.cfg.fAw ≠ wF.headW ∧ ¬ ((wFull.tail + 1) % 2 ^ wFull.cfg.fAw ≠ wFull.headW) := by decide
/-- FC.FRONT and FC.POP: empty, written, unwritten. -/
theorem witness_fixed_consumer :
    State.reset.fixed.head = State.reset.fixed.tailR ∧ wF.head ≠ wF.tailR ∧ wF.head < wF.cfg.slots ∧
    storeRead wF.mem wF.head = some 0x11 ∧
    (mkFixed 2 false 1 1 2 []).head ≠ (mkFixed 2 false 1 1 2 []).tailR ∧
    storeRead (mkFixed 2 false 1 1 2 []).mem 1 = none := by decide
/-- VP.ALLOC, each branch of its tests: refused, contiguous, and wrapped with its sentinel in storage, for
`t ≥ h`; contiguous and refused for `t < h`. -/
theorem witness_VpAlloc :
    vPlaceAt varExample 496 0 488 = none ∧ vPlaceAt varExample 0 0 488 = some ⟨0, 496, false⟩ ∧
    vPlaceAt varExample 504 504 100 = some ⟨0, 112, true⟩ ∧ 504 + 8 ≤ varExample.capacity ∧
    vPlaceAt varExample 16 64 32 = some ⟨16, 40, false⟩ ∧ vPlaceAt varExample 16 64 40 = none ∧
    (mkVar 504 false 0 0 0 504 504 504 []).headW = 504 ∧ (mkVar 504 false 0 0 0 504 504 504 []).fault = none := by
  decide
/-- VP.WRITE and VP.PUSH: no reservation, an offset outside, the last offset inside. -/
theorem witness_VpWrite :
    State.reset.var.resv = false ∧ wVr.resv = true ∧ wVr.fault = none ∧ wVr.resvLen ≤ 5 ∧ 4 < wVr.resvLen ∧
    wVr.resvOff + 8 + 4 < wVr.cfg.capacity := by decide
/-- VC.FRONT, VC.READ and VC.POP: nothing visible, a message with a written and an unwritten byte and an offset
outside, a header that does not decode. -/
theorem witness_consumer_views :
    vFrontView State.reset.var = .ok none ∧ vFrontView wV = .ok (some ⟨0, 16, 5⟩) ∧
    storeRead wV.mem (0 + 8 + 0) = some 0x48 ∧ storeRead wV.mem (0 + 8 + 4) = none ∧
    0 + 8 + 4 < wV.cfg.capacity ∧
    vFrontView (mkVar 8 false 0 0 0 0 0 8 []) = .error (.record .vHeaderInvalid) := ⟨rfl, rfl, rfl, rfl, by decide, rfl⟩
theorem witness_Frozen :
    (wF.takeFault .fPopEmpty .read 2).fault ≠ none ∧ (wV.takeFault .vPopEmpty .read 3).fault ≠ none ∧
    (Instr.fpNop 0).port.kind = .fixedSlot ∧ (Instr.vpNop 0 0).port.kind = .variableLength := by decide
/-- An edge that faults, on each instance (also for the statement that no run meets an invalid header). -/
theorem witness_Faults :
    (∃ t, exec (.fpPush 0) State.reset = .next t ∧ t.fixed.fault ≠ State.reset.fixed.fault) ∧
    (∃ t, exec (.vcPop 0) State.reset = .next t ∧ t.var.fault ≠ State.reset.var.fault) :=
  ⟨⟨_, rfl, by decide⟩, ⟨_, rfl, by decide⟩⟩
theorem witness_NoInvalidHeader :
    ∃ t r, step { State.reset with var := wV, pending := [.edge .vc 0x7E] } = .next t ∧ t.var.fault = some r ∧
      wV.fault = none := ⟨_, _, rfl, rfl, rfl⟩
/-- A command of each port that answers (the statements about every command and their frames). -/
theorem witness_commands_answer :
    (∃ t, exec (.fpWrite 1) wS = .next t) ∧ (∃ t, exec .fcPop wS = .next t) ∧
    (∃ t, exec (.vpPush 0 0) wS = .next t) ∧ (∃ t, exec (.vcRead 0) wS = .next t) ∧
    (Instr.fpWrite 1).port.domain = .write ∧ Instr.fcPop.port.domain = .read :=
  ⟨⟨_, rfl⟩, ⟨_, rfl⟩, ⟨_, rfl⟩, ⟨_, rfl⟩, rfl, rfl⟩
theorem witness_Independent :
    (∃ t, exec .fcPop wS = .next t ∧ ({ wS with var := wVr } : State).fixed = wS.fixed ∧ wVr ≠ wS.var) ∧
    (∃ t, exec (.vcPop 0) wS = .next t ∧ ({ wS with fixed := wFull } : State).var = wS.var ∧ wFull ≠ wS.fixed) :=
  ⟨⟨_, rfl, rfl, by decide⟩, ⟨_, rfl, rfl, by decide⟩⟩
/-- States that differ in the other domain's registers alone. -/
theorem witness_OnlyGray :
    (∃ t, exec (.fpPush 0) wS = .next t) ∧ wF.SameWriteSide { wF with head := 1, rpub := 1 } ∧
    (∃ t, exec .fcPop wS = .next t) ∧ wF.SameReadSide { wF with tail := 2, wpub := 2 } ∧
    (∃ t, exec (.vpPush 0 0) wS = .next t) ∧ wV.SameWriteSide { wV with head := 8, rpub := 1 } ∧
    (∃ t, exec (.vcPop 0) wS = .next t) ∧ wV.SameReadSide { wV with tail := 24, wpub := 3 } :=
  ⟨⟨_, rfl⟩, by decide, ⟨_, rfl⟩, by decide, ⟨_, rfl⟩, by decide, ⟨_, rfl⟩, by decide⟩
/-- A step of an edge and a step of a reset (the statements about steps). -/
theorem witness_steps :
    (∃ t, step { wS with pending := [.edge .fp 3] } = .next t) ∧
    (∃ t, step { wS with pending := [.reset .variableLength] } = .next t) := ⟨⟨_, rfl⟩, ⟨_, rfl⟩⟩
theorem witness_Elaboration :
    FixedConfig.elaborate ⟨8, 2, 2⟩ = some fixedExample ∧ VarConfig.elaborate ⟨9, 3, 2⟩ = some varExample ∧
    FixedConfig.elaborate ⟨8, 32, 2⟩ = none ∧ VarConfig.elaborate ⟨9, 9, 2⟩ = none := by decide
theorem witness_Gray : 63 < 2 ^ 6 ∧ 1 ≤ 6 ∧ 4 + 1 < 6 ∧ bin2gray (8 - 1) ^^^ bin2gray 0 = 2 ^ 2 := by decide
theorem witness_Publish : 63 < 64 ∧ 14 < 64 ∧ 63 ≠ 14 := by decide
theorem witness_Oversized :
    8 < varExample.capacity ∧ roundup (8 + 497) varExample.block > varExample.capacity - varExample.block ∧
    State.reset.var.fault = none ∧ State.reset.var.tail < State.reset.var.cfg.capacity := by decide
theorem witness_Placement :
    8 < varExample.capacity ∧ 8 % varExample.block = 0 ∧
    roundup (8 + 496) varExample.block = varExample.capacity - varExample.block ∧
    vPlaceAt varExample 8 8 496 = some ⟨8, 504, false⟩ ∧
    504 % varExample.block = 0 ∧ 120 % varExample.block = 0 ∧
    (∃ p, vPlaceAt varExample 504 120 100 = some p ∧ p.wrap = true) :=
  ⟨by decide, by decide, by decide, rfl, by decide, by decide, _, rfl, rfl⟩
theorem witness_HalfCapacity :
    roundup (8 + 248) varExample.block ≤ varExample.capacity / 2 ∧
    varExample.capacity / 2 < roundup (8 + 249) varExample.block := by decide
theorem witness_HeadForward :
    cdist 120 400 512 + cdist 400 504 512 = cdist 120 504 512 ∧ 504 < varExample.capacity ∧
    vPlaceAt varExample 504 120 100 = some ⟨0, 112, true⟩ := by decide
theorem witness_Headers :
    roundup (8 + 496) varExample.block ≤ varExample.capacity - varExample.block ∧
    8 + roundup (8 + 496) varExample.block ≤ varExample.capacity ∧ 504 + 8 ≤ varExample.capacity ∧
    (∀ k, k < 8 → storeRead wMem (0 + k) = some (headerByte 16 5 k)) ∧
    storeRead wMem (8 + 1) = none := by decide
/-- Each clause of the visibility statement: empty; partly and fully published; behind a sentinel the skip
alone, then the message; two sentinels; a header never written (95 V-V-4a, c, b, f, i, q, o). -/
theorem witness_Visibility :
    cdist 0 0 512 = 0 ∧ hdrDecode smallVar wMem 0 = .ok (.message 16 5) ∧ cdist 0 8 32 = 8 ∧ cdist 0 16 32 = 16 ∧
    hdrDecode varExample wrapMem 504 = .ok .sentinel ∧ cdist 504 0 512 = 512 - 504 ∧ cdist 504 112 512 > 512 - 504 ∧
    hdrDecode varExample wrapMem 0 = .ok (.message 112 100) ∧
    hdrDecode varExample [(0, 8), (1, 0), (2, 0), (3, 0), (4, 0), (5, 0), (6, 0), (7, 0x80)] 0 = .ok .sentinel ∧
    hdrDecode varExample [] 0 = .error (.record .vHeaderInvalid) :=
  ⟨by decide, rfl, by decide, by decide, rfl, by decide, by decide, rfl, rfl, rfl⟩
/-- A NOP at each port in turn. -/
def nopEnv (n : Nat) : Event :=
  match n % 4 with
  | 0 => .edge .fp 0
  | 1 => .edge .fc 0
  | 2 => .edge .vp 0
  | _ => .edge .vc 0
/-- What the edge before step `n` drove. -/
def nopResp (n : Nat) : Response :=
  match n % 4 with
  | 0 => .vc vcSilent
  | 1 => .fp fpSilent
  | 2 => .fc fcSilent
  | _ => .vp vpSilent
/-- An infinite run with weak fairness and no fault, from settled FIFOs that each hold an element. -/
theorem witness_FairRun :
    InfiniteRun nopEnv (fun n => { wS with resp := nopResp n }) ∧
    WeaklyFair .fixedSlot nopEnv ∧ WeaklyFair .variableLength nopEnv ∧
    (∀ n, wS.fixed.fault = none ∧ nopEnv n ≠ .reset .fixedSlot ∧ wS.var.fault = none ∧
      nopEnv n ≠ .reset .variableLength) ∧ wS.var.head ≠ wS.var.tail := by
  have hm : ∀ n, n % 4 < 4 := fun n => Nat.mod_lt _ (by decide)
  refine ⟨fun n => ?_, ?_, ?_, fun n => ?_, by decide⟩
  · have h1 : (n + 1) % 4 = (n % 4 + 1) % 4 := by omega
    have := hm n
    simp only [nopEnv, nopResp, h1]
    generalize n % 4 = r at *
    interval_cases r <;> rfl
  · intro port hp n
    cases port
    · exact ⟨4 * n, 0, by omega, by simp [nopEnv]⟩
    · exact ⟨4 * n + 1, 0, by omega, by simp [nopEnv]⟩
    · cases hp
    · cases hp
  · intro port hp n
    cases port
    · cases hp
    · cases hp
    · exact ⟨4 * n + 2, 0, by omega, by simp [nopEnv]⟩
    · exact ⟨4 * n + 3, 0, by omega, by simp [nopEnv]⟩
  · have := hm n
    simp only [nopEnv]
    generalize n % 4 = r at *
    interval_cases r <;> decide
/-- For the statement that every command completes: a word of its port presented, nothing presented, and each
instance faulted. -/
theorem witness_Completes :
    ({ wS with pending := [.edge .vc 0x7F] } : State).pending = .edge .vc 0x7F :: [] ∧
    0x7F < 2 ^ portWidth wS.fixed.cfg wS.var.cfg .vc ∧ wS.pending = [] ∧
    (wF.takeFault .fPopEmpty .read 2).Inv ∧ (wF.takeFault .fPopEmpty .read 2).fault ≠ none ∧
    (wV.takeFault .vPopEmpty .read 3).Inv ∧ (wV.takeFault .vPopEmpty .read 3).fault ≠ none :=
  ⟨rfl, by decide, rfl, witness_fixed_inv.1, by decide, witness_var_inv, by decide⟩
/-- The queue statements: a push, a pop and a shown element of each FIFO. -/
theorem witness_queues :
    (∃ t, exec .fcFront wS = .next t ∧ t.resp = .fc ⟨some true, some 0, some 0x11⟩) ∧
    (∃ t, exec .fcPop wS = .next t ∧ t.fixed.fault = none) ∧
    (∃ t, exec (.vcFront 0) wS = .next t ∧ t.resp = .vc (vcShown ⟨0, 16, 5⟩)) ∧
    (∃ t, exec (.vcRead 0) wS = .next t ∧ t.resp = .vc (vcByte 0x48)) ∧
    (∃ t, exec (.vcPop 0) wS = .next t ∧ t.var.fault = none) :=
  ⟨⟨_, rfl, rfl⟩, ⟨_, rfl, rfl⟩, ⟨_, rfl, rfl⟩, ⟨_, rfl, rfl⟩, ⟨_, rfl, rfl⟩⟩
/-- The unread regions of the witness state are not empty. -/
theorem witness_Unread :
    0 < cdist wF.head wF.tail wF.cfg.slots ∧ 0 < cdist wV.head wV.tail wV.cfg.capacity := by decide
/-- What may stand between two VP.ALLOCs of length 5. -/
def betweenCmds : List Instr := [.vpWrite 0 0x48, .vpNop 0 0, .vcNop 0, .fpAlloc 0, .vpAlloc 5 7, .vcFront 0]
theorem witness_RepeatedAlloc :
    (∀ i ∈ betweenCmds, (∀ x y, i ≠ .vpPush x y) ∧ (∀ l y, i = .vpAlloc l y → l = 5)) ∧
    ∃ t u v, exec (.vpAlloc 5 0) (withV (Variable.powerUp smallVar)) = .next t ∧
      t.resp = .vp ⟨some true, some 0⟩ ∧ execAll betweenCmds t = .next u ∧ u.var.fault = none ∧
      exec (.vpAlloc 5 1) u = .next v :=
  ⟨by simp [betweenCmds], _, _, _, rfl, rfl, rfl, rfl, rfl⟩
theorem witness_VariableLatency :
    24 = (wV.resvOff + wV.resvTotal) % wV.cfg.capacity ∧
    1 = cdist wV.tail 24 wV.cfg.capacity / wV.cfg.block ∧
    16 = (0 + 16) % wV.cfg.capacity ∧ 2 = cdist wV.head 16 wV.cfg.capacity / wV.cfg.block := by decide
/-- Three slots pushed with N = 4 and made visible. -/
def fillCmds : List Instr :=
  [.fpAlloc 0, .fpPush 0, .fpAlloc 0, .fpPush 0, .fpAlloc 0, .fpPush 0, .fpNop 0, .fcNop, .fcNop]
/-- A run without a pop and without a fault that pushes N - 1 slots, then a pop that does not fault. -/
theorem witness_Capacity :
    (∀ i ∈ fillCmds, i.port.kind = .fixedSlot ∧ i ≠ .fcPop) ∧ fillCmds.countP isFpPush = fixedExample.slots - 1 ∧
    ∃ t u, execAll fillCmds State.reset = .next t ∧ t.fixed.fault = none ∧ exec .fcPop t = .next u ∧
      u.fixed.fault = none :=
  ⟨by decide, rfl, _, _, rfl, rfl, rfl, rfl⟩

end Sys2Proof.Tests
end

/-!
PROOFS of the scope's statements (00_scope.md): a step runs the decoded command, the two FIFOs are
independent, no step changes a parameter, and written headers decode as what they are. The facts about the model
come first; the statements are settled at the end.
-/

namespace Sys2Proof

open Machine

/-! ### The decoder answers well-formed commands -/

theorem Machine.bitField_lt (v hi lo : Nat) : bitField v hi lo < 2 ^ (hi + 1 - lo) :=
  Nat.mod_lt _ (Nat.two_pow_pos _)

theorem decodeFp_wellFormed (fc : FixedConfig) (vc : VarConfig) (w : Nat) :
    (decodeFp fc w).WellFormed fc vc := by
  have hdata : fpDataField fc w < 2 ^ fc.fW := bitField_lt w (fc.fW + 1) 2
  unfold decodeFp
  split <;> exact hdata

theorem decodeFc_wellFormed (fc : FixedConfig) (vc : VarConfig) (w : Nat) :
    (decodeFc w).WellFormed fc vc := by
  unfold decodeFc
  split <;> trivial

theorem decodeVp_wellFormed (fc : FixedConfig) (vc : VarConfig) (w : Nat) :
    (decodeVp vc w).WellFormed fc vc := by
  have ha : vpAField vc w < 2 ^ vc.l := bitField_lt w (vc.l + 1) 2
  unfold decodeVp
  split <;> exact ha

theorem decodeVc_wellFormed (fc : FixedConfig) (vc : VarConfig) (w : Nat) :
    (decodeVc vc w).WellFormed fc vc := by
  have ha : vcAField vc w < 2 ^ vc.l := bitField_lt w (vc.l + 1) 2
  unfold decodeVc
  split <;> exact ha

/-- A word that decodes at a port fits the port's wires, and the port's own command map gives the command
(30_encoding.md R111, R114). -/
theorem decode_ok {fc : FixedConfig} {vc : VarConfig} {port : Port} {w : Nat} {i : Instr}
    (h : decode fc vc port w = .ok i) :
    w < 2 ^ portWidth fc vc port ∧
      ((port = .fp ∧ i = decodeFp fc w) ∨ (port = .fc ∧ i = decodeFc w) ∨
        (port = .vp ∧ i = decodeVp vc w) ∨ (port = .vc ∧ i = decodeVc vc w)) := by
  unfold decode at h
  split at h
  · cases h
  · next hw => cases port <;> cases h <;> simp [Nat.not_le.1 hw]

theorem decode_wellFormed {fc : FixedConfig} {vc : VarConfig} {port : Port} {w : Nat} {i : Instr}
    (h : decode fc vc port w = .ok i) : i.WellFormed fc vc := by
  obtain ⟨-, ⟨-, rfl⟩ | ⟨-, rfl⟩ | ⟨-, rfl⟩ | ⟨-, rfl⟩⟩ := decode_ok h
  · exact decodeFp_wellFormed fc vc w
  · exact decodeFc_wellFormed fc vc w
  · exact decodeVp_wellFormed fc vc w
  · exact decodeVc_wellFormed fc vc w

/-! ### The ports of a FIFO (30_encoding.md R100) -/

theorem Port.fixedSlot_cases {port : Port} (h : port.kind = .fixedSlot) : port = .fp ∨ port = .fc := by
  cases port <;> simp [Port.kind] at h ⊢

theorem Port.variableLength_cases {port : Port} (h : port.kind = .variableLength) :
    port = .vp ∨ port = .vc := by
  cases port <;> simp [Port.kind] at h ⊢

end Sys2Proof

namespace Sys2Proof.Machine

theorem step_edge {s : State} {port : Port} {w : Nat} {rest : List Event} {i : Instr}
    (hp : s.pending = .edge port w :: rest) (hd : decode s.fixed.cfg s.var.cfg port w = .ok i) :
    step s = exec i { s with pending := rest } := by
  simp only [step, hp, hd]

/-! ### A command is its command part inside the edge of its port (43_gray_pointer_sync.md R250 to R253) -/

/-- A command part of the FP port changes `f_tail`, `f_resv` and storage at most (10_state.md R32, R34). -/
def IsFpPart (part : Fixed → Except Stop (Fixed × FpResp)) : Prop :=
  ∀ f g r, part f = .ok (g, r) →
    ∃ tail resv mem, g = { f with tail := tail, resv := resv, mem := mem }

/-- A command part of the FC port changes `f_head` at most (10_state.md R33). -/
def IsFcPart (part : Fixed → Except Stop (Fixed × FcResp)) : Prop :=
  ∀ f g r, part f = .ok (g, r) → ∃ head, g = { f with head := head }

/-- A command part of the VP port changes `v_tail`, the reservation and storage at most (10_state.md R37, R39). -/
def IsVpPart (part : Variable → Except Stop (Variable × VpResp)) : Prop :=
  ∀ v w r, part v = .ok (w, r) →
    ∃ tail resv off total len mem, w = { v with
      tail := tail, resv := resv, resvOff := off, resvTotal := total, resvLen := len, mem := mem }

/-- A command part of the VC port changes `v_head` at most (10_state.md R38). -/
def IsVcPart (part : Variable → Except Stop (Variable × VcResp)) : Prop :=
  ∀ v w r, part v = .ok (w, r) → ∃ head, w = { v with head := head }

theorem fpNopPart_isFpPart : IsFpPart fpNopPart := fun _ _ _ h => by
  obtain ⟨rfl, -⟩ := fpNopPart_ok.1 h
  exact ⟨_, _, _, rfl⟩

theorem fpAllocPart_isFpPart : IsFpPart fpAllocPart := fun _ _ _ h => by
  obtain ⟨-, rfl, -⟩ | ⟨-, rfl, -⟩ := fpAllocPart_ok.1 h <;> exact ⟨_, _, _, rfl⟩

theorem fpWritePart_isFpPart (data : Nat) : IsFpPart (fpWritePart · data) := fun _ _ _ h => by
  obtain ⟨-, -, rfl, -⟩ := fpWritePart_ok.1 h
  exact ⟨_, _, _, rfl⟩

theorem fpPushPart_isFpPart : IsFpPart fpPushPart := fun _ _ _ h => by
  obtain ⟨-, rfl, -⟩ := fpPushPart_ok.1 h
  exact ⟨_, _, _, rfl⟩

theorem fcNopPart_isFcPart : IsFcPart fcNopPart := fun _ _ _ h => by
  obtain ⟨rfl, -⟩ := fcNopPart_ok.1 h
  exact ⟨_, rfl⟩

theorem fcFrontPart_isFcPart : IsFcPart fcFrontPart := fun _ _ _ h => by
  obtain ⟨rfl, -⟩ := fcFrontPart_ok.1 h
  exact ⟨_, rfl⟩

theorem fcPopPart_isFcPart : IsFcPart fcPopPart := fun _ _ _ h => by
  obtain ⟨-, rfl, -⟩ := fcPopPart_ok.1 h
  exact ⟨_, rfl⟩

theorem fcReservedPart_isFcPart : IsFcPart fcReservedPart := fun _ _ _ h => nomatch h

theorem vpNopPart_isVpPart : IsVpPart vpNopPart := fun _ _ _ h => by
  obtain ⟨rfl, -⟩ := vpNopPart_ok.1 h
  exact ⟨_, _, _, _, _, _, rfl⟩

theorem vpAllocPart_isVpPart (len : Nat) : IsVpPart (vpAllocPart · len) := fun _ _ _ h => by
  obtain ⟨-, rfl, -⟩ | ⟨p, m, -, -, rfl, -⟩ := vpAllocPart_ok.1 h <;> exact ⟨_, _, _, _, _, _, rfl⟩

theorem vpWritePart_isVpPart (off : Nat) (b : Byte) : IsVpPart (vpWritePart · off b) := fun _ _ _ h => by
  obtain ⟨-, -, -, rfl, -⟩ := vpWritePart_ok.1 h
  exact ⟨_, _, _, _, _, _, rfl⟩

theorem vpPushPart_isVpPart : IsVpPart vpPushPart := fun _ _ _ h => by
  obtain ⟨-, rfl, -⟩ := vpPushPart_ok.1 h
  exact ⟨_, _, _, _, _, _, rfl⟩

theorem vcNopPart_isVcPart : IsVcPart vcNopPart := fun _ _ _ h => by
  obtain ⟨rfl, -⟩ := vcNopPart_ok.1 h
  exact ⟨_, rfl⟩

theorem vcFrontPart_isVcPart : IsVcPart vcFrontPart := fun _ _ _ h => by
  obtain ⟨rfl, -⟩ := vcFrontPart_ok.1 h
  exact ⟨_, rfl⟩

theorem vcReadPart_isVcPart (off : Nat) : IsVcPart (vcReadPart · off) := fun _ _ _ h => by
  obtain ⟨rfl, -⟩ := vcReadPart_ok.1 h
  exact ⟨_, rfl⟩

theorem vcPopPart_isVcPart : IsVcPart vcPopPart := fun _ _ _ h => by
  obtain ⟨m, -, rfl, -⟩ := vcPopPart_ok.1 h
  exact ⟨_, rfl⟩

/-- A command of the FP port is a command part of that port inside `WEdge_F` (R250). Its word does not depend on
the other FIFO's configuration. -/
theorem exec_fp {i : Instr} (h : i.port = .fp) :
    ∃ part, IsFpPart part ∧ ∀ s vc, exec i s = fixedWEdge s (encode vc i) (part s.fixed) := by
  cases i with
  | fpNop data => exact ⟨_, fpNopPart_isFpPart, fun _ _ => rfl⟩
  | fpAlloc data => exact ⟨_, fpAllocPart_isFpPart, fun _ _ => rfl⟩
  | fpWrite data => exact ⟨_, fpWritePart_isFpPart data, fun _ _ => rfl⟩
  | fpPush data => exact ⟨_, fpPushPart_isFpPart, fun _ _ => rfl⟩
  | _ => cases h

/-- A command of the FC port is a command part of that port inside `REdge_F` (R251). -/
theorem exec_fc {i : Instr} (h : i.port = .fc) :
    ∃ part, IsFcPart part ∧ ∀ s vc, exec i s = fixedREdge s (encode vc i) (part s.fixed) := by
  cases i with
  | fcNop => exact ⟨_, fcNopPart_isFcPart, fun _ _ => rfl⟩
  | fcFront => exact ⟨_, fcFrontPart_isFcPart, fun _ _ => rfl⟩
  | fcPop => exact ⟨_, fcPopPart_isFcPart, fun _ _ => rfl⟩
  | fcReserved => exact ⟨_, fcReservedPart_isFcPart, fun _ _ => rfl⟩
  | _ => cases h

/-- A command of the VP port is a command part of that port inside `WEdge_V` (R252). -/
theorem exec_vp {i : Instr} (h : i.port = .vp) :
    ∃ part, IsVpPart part ∧ ∀ s, exec i s = varWEdge s (encode s.var.cfg i) (part s.var) := by
  cases i with
  | vpNop a b => exact ⟨_, vpNopPart_isVpPart, fun _ => rfl⟩
  | vpAlloc len b => exact ⟨_, vpAllocPart_isVpPart len, fun _ => rfl⟩
  | vpWrite off b => exact ⟨_, vpWritePart_isVpPart off b, fun _ => rfl⟩
  | vpPush a b => exact ⟨_, vpPushPart_isVpPart, fun _ => rfl⟩
  | _ => cases h

/-- A command of the VC port is a command part of that port inside `REdge_V` (R253). -/
theorem exec_vc {i : Instr} (h : i.port = .vc) :
    ∃ part, IsVcPart part ∧ ∀ s, exec i s = varREdge s (encode s.var.cfg i) (part s.var) := by
  cases i with
  | vcNop a => exact ⟨_, vcNopPart_isVcPart, fun _ => rfl⟩
  | vcFront a => exact ⟨_, vcFrontPart_isVcPart, fun _ => rfl⟩
  | vcRead off => exact ⟨_, vcReadPart_isVcPart off, fun _ => rfl⟩
  | vcPop a => exact ⟨_, vcPopPart_isVcPart, fun _ => rfl⟩
  | _ => cases h

section
variable {s s' t : State} {w : Nat}

/-! ### Edges depend on their own FIFO and change nothing of the other (00_scope.md R3) -/

theorem fixedWEdge_of_fixed_eq {p : Except Stop (Fixed × FpResp)} (hs : s'.fixed = s.fixed)
    (h : fixedWEdge s w p = .next t) : fixedWEdge s' w p = .next (s'.putFixed t.fixed t.resp) := by
  rw [fixedWEdge_next, hs]
  obtain ⟨hf, rfl⟩ | ⟨hf, code, rfl, rfl⟩ | ⟨hf, f, r, rfl, rfl⟩ := fixedWEdge_next.1 h
  · exact .inl ⟨hf, rfl⟩
  · exact .inr (.inl ⟨hf, code, rfl, rfl⟩)
  · exact .inr (.inr ⟨hf, f, r, rfl, rfl⟩)

theorem fixedREdge_of_fixed_eq {p : Except Stop (Fixed × FcResp)} (hs : s'.fixed = s.fixed)
    (h : fixedREdge s w p = .next t) : fixedREdge s' w p = .next (s'.putFixed t.fixed t.resp) := by
  rw [fixedREdge_next, hs]
  obtain ⟨hf, rfl⟩ | ⟨hf, code, rfl, rfl⟩ | ⟨hf, f, r, rfl, rfl⟩ := fixedREdge_next.1 h
  · exact .inl ⟨hf, rfl⟩
  · exact .inr (.inl ⟨hf, code, rfl, rfl⟩)
  · exact .inr (.inr ⟨hf, f, r, rfl, rfl⟩)

theorem varWEdge_of_var_eq {p : Except Stop (Variable × VpResp)} (hs : s'.var = s.var)
    (h : varWEdge s w p = .next t) : varWEdge s' w p = .next (s'.putVar t.var t.resp) := by
  rw [varWEdge_next, hs]
  obtain ⟨hf, rfl⟩ | ⟨hf, code, rfl, rfl⟩ | ⟨hf, v, r, rfl, rfl⟩ := varWEdge_next.1 h
  · exact .inl ⟨hf, rfl⟩
  · exact .inr (.inl ⟨hf, code, rfl, rfl⟩)
  · exact .inr (.inr ⟨hf, v, r, rfl, rfl⟩)

theorem varREdge_of_var_eq {p : Except Stop (Variable × VcResp)} (hs : s'.var = s.var)
    (h : varREdge s w p = .next t) : varREdge s' w p = .next (s'.putVar t.var t.resp) := by
  rw [varREdge_next, hs]
  obtain ⟨hf, rfl⟩ | ⟨hf, code, rfl, rfl⟩ | ⟨hf, v, r, rfl, rfl⟩ := varREdge_next.1 h
  · exact .inl ⟨hf, rfl⟩
  · exact .inr (.inl ⟨hf, code, rfl, rfl⟩)
  · exact .inr (.inr ⟨hf, v, r, rfl, rfl⟩)

/-- From a state with the same fixed-slot FIFO, a command of that FIFO answers with the same FIFO and response, put
into that state. -/
theorem exec_of_fixed_eq {i : Instr} (hk : i.port.kind = .fixedSlot) (hs : s'.fixed = s.fixed)
    (h : exec i s = .next t) : exec i s' = .next (s'.putFixed t.fixed t.resp) := by
  obtain hp | hp := Port.fixedSlot_cases hk
  · obtain ⟨part, -, hexec⟩ := exec_fp hp
    rw [hexec s s.var.cfg] at h
    rw [hexec s' s.var.cfg, hs]
    exact fixedWEdge_of_fixed_eq hs h
  · obtain ⟨part, -, hexec⟩ := exec_fc hp
    rw [hexec s s.var.cfg] at h
    rw [hexec s' s.var.cfg, hs]
    exact fixedREdge_of_fixed_eq hs h

/-- From a state with the same variable-length FIFO, a command of that FIFO answers with the same FIFO and response,
put into that state. -/
theorem exec_of_var_eq {i : Instr} (hk : i.port.kind = .variableLength) (hs : s'.var = s.var)
    (h : exec i s = .next t) : exec i s' = .next (s'.putVar t.var t.resp) := by
  obtain hp | hp := Port.variableLength_cases hk
  · obtain ⟨part, -, hexec⟩ := exec_vp hp
    rw [hexec] at h ⊢
    rw [hs]
    exact varWEdge_of_var_eq hs h
  · obtain ⟨part, -, hexec⟩ := exec_vc hp
    rw [hexec] at h ⊢
    rw [hs]
    exact varREdge_of_var_eq hs h

/-- A command of the fixed-slot FIFO changes that FIFO and the response alone. -/
theorem exec_eq_putFixed {i : Instr} (hk : i.port.kind = .fixedSlot) (h : exec i s = .next t) :
    t = s.putFixed t.fixed t.resp :=
  Host.Outcome.next.inj (h.symm.trans (exec_of_fixed_eq hk rfl h))

/-- A command of the variable-length FIFO changes that FIFO and the response alone. -/
theorem exec_eq_putVar {i : Instr} (hk : i.port.kind = .variableLength) (h : exec i s = .next t) :
    t = s.putVar t.var t.resp :=
  Host.Outcome.next.inj (h.symm.trans (exec_of_var_eq hk rfl h))

theorem exec_fixed_keeps_var {i : Instr} (hk : i.port.kind = .fixedSlot) (h : exec i s = .next t) :
    t.var = s.var := by
  rw [exec_eq_putFixed hk h, State.putFixed_var]

theorem exec_var_keeps_fixed {i : Instr} (hk : i.port.kind = .variableLength) (h : exec i s = .next t) :
    t.fixed = s.fixed := by
  rw [exec_eq_putVar hk h, State.putVar_fixed]

/-! ### No step changes a parameter (00_scope.md R11) -/

theorem fixedWEdge_keeps_cfg {part : Fixed → Except Stop (Fixed × FpResp)} (hpart : IsFpPart part)
    (h : fixedWEdge s w (part s.fixed) = .next t) : t.fixed.cfg = s.fixed.cfg := by
  obtain ⟨-, rfl⟩ | ⟨-, code, -, rfl⟩ | ⟨-, f, r, hok, rfl⟩ := fixedWEdge_next.1 h
  · rfl
  · rfl
  · obtain ⟨tail, resv, mem, rfl⟩ := hpart _ _ _ hok
    rfl

theorem fixedREdge_keeps_cfg {part : Fixed → Except Stop (Fixed × FcResp)} (hpart : IsFcPart part)
    (h : fixedREdge s w (part s.fixed) = .next t) : t.fixed.cfg = s.fixed.cfg := by
  obtain ⟨-, rfl⟩ | ⟨-, code, -, rfl⟩ | ⟨-, f, r, hok, rfl⟩ := fixedREdge_next.1 h
  · rfl
  · rfl
  · obtain ⟨head, rfl⟩ := hpart _ _ _ hok
    rfl

theorem varWEdge_keeps_cfg {part : Variable → Except Stop (Variable × VpResp)} (hpart : IsVpPart part)
    (h : varWEdge s w (part s.var) = .next t) : t.var.cfg = s.var.cfg := by
  obtain ⟨-, rfl⟩ | ⟨-, code, -, rfl⟩ | ⟨-, v, r, hok, rfl⟩ := varWEdge_next.1 h
  · rfl
  · rfl
  · obtain ⟨tail, resv, off, total, len, mem, rfl⟩ := hpart _ _ _ hok
    rfl

theorem varREdge_keeps_cfg {part : Variable → Except Stop (Variable × VcResp)} (hpart : IsVcPart part)
    (h : varREdge s w (part s.var) = .next t) : t.var.cfg = s.var.cfg := by
  obtain ⟨-, rfl⟩ | ⟨-, code, -, rfl⟩ | ⟨-, v, r, hok, rfl⟩ := varREdge_next.1 h
  · rfl
  · rfl
  · obtain ⟨head, rfl⟩ := hpart _ _ _ hok
    rfl

theorem exec_keeps_cfg {i : Instr} (h : exec i s = .next t) :
    t.fixed.cfg = s.fixed.cfg ∧ t.var.cfg = s.var.cfg := by
  cases hp : i.port with
  | fp =>
    obtain ⟨part, hpart, hexec⟩ := exec_fp hp
    have hvar := exec_fixed_keeps_var (by rw [hp]; rfl) h
    exact ⟨fixedWEdge_keeps_cfg hpart (hexec s s.var.cfg ▸ h), by rw [hvar]⟩
  | fc =>
    obtain ⟨part, hpart, hexec⟩ := exec_fc hp
    have hvar := exec_fixed_keeps_var (by rw [hp]; rfl) h
    exact ⟨fixedREdge_keeps_cfg hpart (hexec s s.var.cfg ▸ h), by rw [hvar]⟩
  | vp =>
    obtain ⟨part, hpart, hexec⟩ := exec_vp hp
    have hfixed := exec_var_keeps_fixed (by rw [hp]; rfl) h
    exact ⟨by rw [hfixed], varWEdge_keeps_cfg hpart (hexec s ▸ h)⟩
  | vc =>
    obtain ⟨part, hpart, hexec⟩ := exec_vc hp
    have hfixed := exec_var_keeps_fixed (by rw [hp]; rfl) h
    exact ⟨by rw [hfixed], varREdge_keeps_cfg hpart (hexec s ▸ h)⟩

theorem resetStep_keeps_cfg {kind : Kind} (h : resetStep s kind = .next t) :
    t.fixed.cfg = s.fixed.cfg ∧ t.var.cfg = s.var.cfg := by
  cases kind <;> cases h <;> exact ⟨rfl, rfl⟩

theorem step_keeps_cfg (h : step s = .next t) :
    t.fixed.cfg = s.fixed.cfg ∧ t.var.cfg = s.var.cfg := by
  obtain ⟨-, rfl⟩ | ⟨kind, rest, -, hreset⟩ | ⟨port, w, rest, i, -, -, hexec⟩ := step_next h
  · exact ⟨rfl, rfl⟩
  · exact resetStep_keeps_cfg (s := { s with pending := rest }) hreset
  · exact exec_keeps_cfg (s := { s with pending := rest }) hexec

end

/-! ### `roundup` and sizes (00_scope.md R11, R14) -/

theorem dvd_roundup (x b : Nat) : b ∣ roundup x b := Nat.dvd_mul_left ..

theorem le_roundup (x : Nat) {b : Nat} (hb : 0 < b) : x ≤ roundup x b := by
  have hdiv := Nat.div_add_mod' (x + b - 1) b
  have hmod := Nat.mod_lt (x + b - 1) hb
  unfold roundup
  omega

theorem roundup_lt (x : Nat) {b : Nat} (hb : 0 < b) : roundup x b < x + b := by
  have hdiv := Nat.div_mul_le_self (x + b - 1) b
  unfold roundup
  omega

theorem capacity_le (c : VarConfig) : c.capacity ≤ 2 ^ 31 := by
  obtain ⟨-, hl, -⟩ := c.legal
  exact Nat.pow_le_pow_right (by decide) hl

theorem block_lt_capacity (c : VarConfig) : c.block < c.capacity := by
  obtain ⟨-, -, -, hkl, -⟩ := c.legal
  exact Nat.pow_lt_pow_right (by decide) hkl

section
variable {c : VarConfig} {m : List Host.Cell} {o : Nat}

/-! ### Headers (42_variable_packet_fifo.md R170 to R173) -/

/-- A word with a byte never written is `⊥` (00_scope.md R17). -/
theorem leRead_eq_none {n k : Nat} (hk : k < n) (h : storeRead m (o + k) = none) : leRead m o n = none := by
  induction n generalizing o k with
  | zero => omega
  | succ n ih =>
    cases k with
    | zero =>
      rw [Nat.add_zero] at h
      simp only [leRead, h]
    | succ k =>
      have hrest : leRead m (o + 1) n = none := ih (Nat.lt_of_succ_lt_succ hk) (by rwa [Nat.add_right_comm])
      cases hb : storeRead m o <;> simp only [leRead, hb, hrest]

theorem vMemRead_of_le {n : Nat} (h : o + n ≤ c.capacity) : vMemRead c m o n = .ok (leRead m o n) := if_pos h

/-- `HdrDecode` of two written words checks their consistency. -/
theorem hdrDecode_of_words (ho : o + 8 ≤ c.capacity) {w0 w1 : Nat} (h0 : leRead m o 4 = some w0)
    (h1 : leRead m (o + 4) 4 = some w1) : hdrDecode c m o = headerOfWords c o w0 w1 := by
  simp only [hdrDecode, vMemRead_of_le (show o + 4 ≤ c.capacity by omega),
    vMemRead_of_le (show o + 4 + 4 ≤ c.capacity by omega), h0, h1]

/-- `HdrDecode` with a word that is `⊥` is a bad header. -/
theorem hdrDecode_of_unwritten (ho : o + 8 ≤ c.capacity)
    (h : leRead m o 4 = none ∨ leRead m (o + 4) 4 = none) :
    hdrDecode c m o = .error (.record .vHeaderInvalid) := by
  simp only [hdrDecode, vMemRead_of_le (show o + 4 ≤ c.capacity by omega),
    vMemRead_of_le (show o + 4 + 4 ≤ c.capacity by omega)]
  obtain h | h := h
  · simp only [h]
  · cases leRead m o 4 <;> simp only [h]

theorem hdrDecode_of_unwritten_byte (ho : o + 8 ≤ c.capacity) {k : Nat} (hk : k < 8)
    (h : storeRead m (o + k) = none) : hdrDecode c m o = .error (.record .vHeaderInvalid) := by
  apply hdrDecode_of_unwritten ho
  by_cases hlow : k < 4
  · exact .inl (leRead_eq_none hlow h)
  · refine .inr (leRead_eq_none (k := k - 4) (by omega) ?_)
    rwa [show o + 4 + (k - 4) = o + k by omega]

/-- Storage holds the eight header bytes of the words TOTAL and INFO at `o` (R170). -/
def HoldsHeader (m : List Host.Cell) (o tot info : Nat) : Prop :=
  ∀ k, k < 8 → storeRead m (o + k) = some (headerByte tot info k)

theorem HoldsHeader.hdrDecode_eq {tot info : Nat} (h : HoldsHeader m o tot info) (ho : o + 8 ≤ c.capacity)
    (htot : tot < 2 ^ 32) (hinfo : info < 2 ^ 32) : hdrDecode c m o = headerOfWords c o tot info := by
  refine hdrDecode_of_words ho (leRead_eq 4 (fun k hk => ?_) htot) (leRead_eq 4 (fun k hk => ?_) hinfo)
  · rw [h k (by omega), headerByte, if_pos hk]
  · rw [Nat.add_assoc, h (4 + k) (by omega), headerByte, if_neg (by omega), Nat.add_sub_cancel_left]

/-- Writing a header answers where its eight bytes exist, and leaves them in storage. -/
theorem writeHeader_holdsHeader (ho : o + 8 ≤ c.capacity) (m : List Host.Cell) (tot info : Nat) :
    ∃ m', writeHeader c m o tot info = .ok m' ∧ HoldsHeader m' o tot info := by
  refine ⟨_, writeHeader_ok.2 ⟨ho, rfl⟩, fun k hk => ?_⟩
  rw [storeRead_leWrite, storeRead_leWrite, headerByte]
  by_cases hlow : k < 4
  · rw [if_neg (by omega), if_pos (by omega), if_pos hlow, Nat.add_sub_cancel_left]
  · rw [if_pos (by omega), if_neg hlow, Nat.add_sub_add_left]

/-- R173's check, with KIND and LEN read off the INFO word's top bit. -/
theorem headerOfWords_eq {tot info : Nat} (hinfo : info < 2 ^ 32) :
    headerOfWords c o tot info =
      if 2 ^ 31 ≤ info then
        if tot = c.block ∧ info = 2 ^ 31 then .ok .sentinel else .error (.record .vHeaderInvalid)
      else if tot = roundup (8 + info) c.block ∧ tot ≤ c.capacity - c.block ∧ o + tot ≤ c.capacity then
        .ok (.message tot info)
      else .error (.record .vHeaderInvalid) := by
  unfold headerOfWords
  by_cases hkind : 2 ^ 31 ≤ info
  · have hk : infoKind info = 1 := by unfold infoKind; omega
    have hl : infoLen info = info - 2 ^ 31 := by unfold infoLen; omega
    rw [if_pos hk, if_pos hkind, hl]
    by_cases hs : tot = c.block ∧ info = 2 ^ 31
    · rw [if_pos hs, if_neg (by omega)]
    · rw [if_neg hs, if_pos (by omega)]
  · have hk : infoKind info ≠ 1 := by unfold infoKind; omega
    have hl : infoLen info = info := by unfold infoLen; omega
    rw [if_neg hk, if_neg hkind, hl, totalOf, hdrBytes]
    by_cases hm : tot = roundup (8 + info) c.block ∧ tot ≤ c.capacity - c.block ∧ o + tot ≤ c.capacity
    · rw [if_pos hm, if_neg (by omega)]
    · rw [if_neg hm, if_pos (by omega)]

/-- A message header that fits is read back as the message (R171). -/
theorem writeHeader_decodes (m : List Host.Cell) {len : Nat}
    (htot : roundup (8 + len) c.block ≤ c.capacity - c.block)
    (hfit : o + roundup (8 + len) c.block ≤ c.capacity) :
    ∃ m', writeHeader c m o (roundup (8 + len) c.block) len = .ok m' ∧
      hdrDecode c m' o = .ok (.message (roundup (8 + len) c.block) len) := by
  have hle := le_roundup (8 + len) (block_pos c)
  have hcap := capacity_le c
  obtain ⟨m', hw, hm'⟩ := writeHeader_holdsHeader (show o + 8 ≤ c.capacity by omega) m
    (roundup (8 + len) c.block) len
  refine ⟨m', hw, ?_⟩
  rw [hm'.hdrDecode_eq (by omega) (by omega) (by omega), headerOfWords_eq (by omega), if_neg (by omega),
    if_pos ⟨rfl, htot, hfit⟩]

/-- A sentinel that fits is read back as a sentinel (R172). -/
theorem writeSentinel_decodes (m : List Host.Cell) (ho : o + 8 ≤ c.capacity) :
    ∃ m', writeSentinel c m o = .ok m' ∧ hdrDecode c m' o = .ok .sentinel := by
  have hcap := capacity_le c
  have hblock := block_lt_capacity c
  obtain ⟨m', hw, hm'⟩ := writeHeader_holdsHeader ho m c.block 0x80000000
  refine ⟨m', hw, ?_⟩
  rw [hm'.hdrDecode_eq ho (by omega) (by decide), headerOfWords_eq (by decide), if_pos (by decide),
    if_pos ⟨rfl, by decide⟩]

end

end Sys2Proof.Machine

/-! ### The statements -/

namespace Sys2Proof.Proofs

open Sys2Proof.Machine

/-- Settles O5: the decoder answers well-formed commands, and `step` of an edge runs `exec` of the command. -/
theorem stepRunsTheDecodedCommand : Obligations.StepRunsTheDecodedCommand :=
  fun _ _ _ _ _ hp hd => ⟨decode_wellFormed hd, step_edge hp hd⟩

/-- Settles O26: every command is a command part inside an edge of its own FIFO. -/
theorem instancesAreIndependent : Obligations.InstancesAreIndependent := by
  intro i s s' t h
  constructor
  · intro hk hs
    exact ⟨exec_fixed_keeps_var hk h, _, exec_of_fixed_eq hk hs h, rfl, rfl⟩
  · intro hk hs
    exact ⟨exec_var_keeps_fixed hk h, _, exec_of_var_eq hk hs h, rfl, rfl⟩

/-- Settles O28: neither a reset nor a command part nor an edge writes a configuration. -/
theorem parametersNeverChange : Obligations.ParametersNeverChange := fun _ _ => step_keeps_cfg

/-- Settles O40: the eight bytes in storage determine what `HdrDecode` checks, and a write leaves them there. -/
theorem writtenHeadersDecode : Obligations.WrittenHeadersDecode := by
  refine ⟨fun x b hb => ⟨dvd_roundup x b, le_roundup x hb, roundup_lt x hb⟩,
    fun c m o => ⟨?_, fun ho => ⟨?_, ?_, ?_⟩⟩⟩
  · exact fun len htot hfit => writeHeader_decodes m htot hfit
  · exact writeSentinel_decodes m ho
  · exact fun k hk h => hdrDecode_of_unwritten_byte ho hk h
  · intro tot info htot hinfo (hbytes : HoldsHeader m o tot info)
    rw [hbytes.hdrDecode_eq ho htot hinfo, headerOfWords_eq hinfo]

end Sys2Proof.Proofs

/-!
PROOFS of the state's statements (10_state.md): each register has one writer domain, storage is written by its own
commands alone, only the Gray registers and storage cross between the domains, and the invariants hold after reset.
The facts about the model come first; the statements are settled at the end.
-/

namespace Sys2Proof

/-! ### The ports of a domain (30_encoding.md R100) -/

theorem Port.write_cases {port : Port} (h : port.domain = .write) : port = .fp ∨ port = .vp := by
  cases port <;> simp [Port.domain] at h ⊢

theorem Port.read_cases {port : Port} (h : port.domain = .read) : port = .fc ∨ port = .vc := by
  cases port <;> simp [Port.domain] at h ⊢

end Sys2Proof

namespace Sys2Proof.Machine

section
variable {s s' t : State} {w : Nat} {i : Instr}

/-! ### An edge changes no register of the other domain (10_state.md R47) -/

theorem Fixed.sameReadSide_refl (f : Fixed) : f.SameReadSide f := ⟨rfl, rfl, rfl, rfl⟩

theorem Fixed.sameWriteSide_refl (f : Fixed) : f.SameWriteSide f := ⟨rfl, rfl, rfl, rfl, rfl⟩

theorem Variable.sameReadSide_refl (v : Variable) : v.SameReadSide v := ⟨rfl, rfl, rfl, rfl⟩

theorem Variable.sameWriteSide_refl (v : Variable) : v.SameWriteSide v :=
  ⟨rfl, ⟨rfl, rfl, rfl, rfl⟩, rfl, rfl, rfl⟩

theorem fixedWEdge_sameReadSide {part : Fixed → Except Stop (Fixed × FpResp)} (hpart : IsFpPart part)
    (h : fixedWEdge s w (part s.fixed) = .next t) : s.fixed.SameReadSide t.fixed := by
  obtain ⟨-, rfl⟩ | ⟨-, code, -, rfl⟩ | ⟨-, f, r, hok, rfl⟩ := fixedWEdge_next.1 h
  · exact s.fixed.sameReadSide_refl
  · exact s.fixed.sameReadSide_refl
  · obtain ⟨tail, resv, mem, rfl⟩ := hpart _ _ _ hok
    exact s.fixed.sameReadSide_refl

theorem fixedREdge_sameWriteSide {part : Fixed → Except Stop (Fixed × FcResp)} (hpart : IsFcPart part)
    (h : fixedREdge s w (part s.fixed) = .next t) : s.fixed.SameWriteSide t.fixed := by
  obtain ⟨-, rfl⟩ | ⟨-, code, -, rfl⟩ | ⟨-, f, r, hok, rfl⟩ := fixedREdge_next.1 h
  · exact s.fixed.sameWriteSide_refl
  · exact s.fixed.sameWriteSide_refl
  · obtain ⟨head, rfl⟩ := hpart _ _ _ hok
    exact s.fixed.sameWriteSide_refl

theorem varWEdge_sameReadSide {part : Variable → Except Stop (Variable × VpResp)} (hpart : IsVpPart part)
    (h : varWEdge s w (part s.var) = .next t) : s.var.SameReadSide t.var := by
  obtain ⟨-, rfl⟩ | ⟨-, code, -, rfl⟩ | ⟨-, v, r, hok, rfl⟩ := varWEdge_next.1 h
  · exact s.var.sameReadSide_refl
  · exact s.var.sameReadSide_refl
  · obtain ⟨tail, resv, off, total, len, mem, rfl⟩ := hpart _ _ _ hok
    exact s.var.sameReadSide_refl

theorem varREdge_sameWriteSide {part : Variable → Except Stop (Variable × VcResp)} (hpart : IsVcPart part)
    (h : varREdge s w (part s.var) = .next t) : s.var.SameWriteSide t.var := by
  obtain ⟨-, rfl⟩ | ⟨-, code, -, rfl⟩ | ⟨-, v, r, hok, rfl⟩ := varREdge_next.1 h
  · exact s.var.sameWriteSide_refl
  · exact s.var.sameWriteSide_refl
  · obtain ⟨head, rfl⟩ := hpart _ _ _ hok
    exact s.var.sameWriteSide_refl

theorem exec_write_sameReadSide (hd : i.port.domain = .write) (h : exec i s = .next t) :
    s.fixed.SameReadSide t.fixed ∧ s.var.SameReadSide t.var := by
  obtain hp | hp := Port.write_cases hd
  · obtain ⟨part, hpart, hexec⟩ := exec_fp hp
    rw [exec_fixed_keeps_var (by rw [hp]; rfl) h]
    exact ⟨fixedWEdge_sameReadSide hpart (hexec s s.var.cfg ▸ h), s.var.sameReadSide_refl⟩
  · obtain ⟨part, hpart, hexec⟩ := exec_vp hp
    rw [exec_var_keeps_fixed (by rw [hp]; rfl) h]
    exact ⟨s.fixed.sameReadSide_refl, varWEdge_sameReadSide hpart (hexec s ▸ h)⟩

theorem exec_read_sameWriteSide (hd : i.port.domain = .read) (h : exec i s = .next t) :
    s.fixed.SameWriteSide t.fixed ∧ s.var.SameWriteSide t.var := by
  obtain hp | hp := Port.read_cases hd
  · obtain ⟨part, hpart, hexec⟩ := exec_fc hp
    rw [exec_fixed_keeps_var (by rw [hp]; rfl) h]
    exact ⟨fixedREdge_sameWriteSide hpart (hexec s s.var.cfg ▸ h), s.var.sameWriteSide_refl⟩
  · obtain ⟨part, hpart, hexec⟩ := exec_vc hp
    rw [exec_var_keeps_fixed (by rw [hp]; rfl) h]
    exact ⟨s.fixed.sameWriteSide_refl, varREdge_sameWriteSide hpart (hexec s ▸ h)⟩

/-! ### An edge changes storage only where its command part does (10_state.md R34, R39) -/

theorem fixedWEdge_keeps_mem {p : Except Stop (Fixed × FpResp)}
    (hpart : ∀ f r, p = .ok (f, r) → f.mem = s.fixed.mem) (h : fixedWEdge s w p = .next t) :
    t.fixed.mem = s.fixed.mem := by
  obtain ⟨-, rfl⟩ | ⟨-, code, -, rfl⟩ | ⟨-, f, r, hok, rfl⟩ := fixedWEdge_next.1 h
  · rfl
  · rfl
  · exact hpart f r hok

theorem fixedREdge_keeps_mem {part : Fixed → Except Stop (Fixed × FcResp)} (hpart : IsFcPart part)
    (h : fixedREdge s w (part s.fixed) = .next t) : t.fixed.mem = s.fixed.mem := by
  obtain ⟨-, rfl⟩ | ⟨-, code, -, rfl⟩ | ⟨-, f, r, hok, rfl⟩ := fixedREdge_next.1 h
  · rfl
  · rfl
  · obtain ⟨head, rfl⟩ := hpart _ _ _ hok
    rfl

theorem varWEdge_keeps_mem {p : Except Stop (Variable × VpResp)}
    (hpart : ∀ v r, p = .ok (v, r) → v.mem = s.var.mem) (h : varWEdge s w p = .next t) :
    t.var.mem = s.var.mem := by
  obtain ⟨-, rfl⟩ | ⟨-, code, -, rfl⟩ | ⟨-, v, r, hok, rfl⟩ := varWEdge_next.1 h
  · rfl
  · rfl
  · exact hpart v r hok

theorem varREdge_keeps_mem {part : Variable → Except Stop (Variable × VcResp)} (hpart : IsVcPart part)
    (h : varREdge s w (part s.var) = .next t) : t.var.mem = s.var.mem := by
  obtain ⟨-, rfl⟩ | ⟨-, code, -, rfl⟩ | ⟨-, v, r, hok, rfl⟩ := varREdge_next.1 h
  · rfl
  · rfl
  · obtain ⟨head, rfl⟩ := hpart _ _ _ hok
    rfl

theorem exec_fp_keeps_mem (hp : i.port = .fp) (hi : ∀ data, i ≠ .fpWrite data) (h : exec i s = .next t) :
    t.fixed.mem = s.fixed.mem := by
  cases i with
  | fpNop data =>
    change fixedWEdge s (fpWord 0 data) (fpNopPart s.fixed) = .next t at h
    refine fixedWEdge_keeps_mem (fun f r hok => ?_) h
    obtain ⟨rfl, -⟩ := fpNopPart_ok.1 hok
    rfl
  | fpAlloc data =>
    change fixedWEdge s (fpWord 1 data) (fpAllocPart s.fixed) = .next t at h
    refine fixedWEdge_keeps_mem (fun f r hok => ?_) h
    obtain ⟨-, rfl, -⟩ | ⟨-, rfl, -⟩ := fpAllocPart_ok.1 hok <;> rfl
  | fpWrite data => exact absurd rfl (hi data)
  | fpPush data =>
    change fixedWEdge s (fpWord 3 data) (fpPushPart s.fixed) = .next t at h
    refine fixedWEdge_keeps_mem (fun f r hok => ?_) h
    obtain ⟨-, rfl, -⟩ := fpPushPart_ok.1 hok
    rfl
  | _ => cases hp

theorem exec_vp_keeps_mem (hp : i.port = .vp) (halloc : ∀ len b, i ≠ .vpAlloc len b)
    (hwrite : ∀ off b, i ≠ .vpWrite off b) (h : exec i s = .next t) : t.var.mem = s.var.mem := by
  cases i with
  | vpNop a b =>
    change varWEdge s (vpWord s.var.cfg 0 a b) (vpNopPart s.var) = .next t at h
    refine varWEdge_keeps_mem (fun v r hok => ?_) h
    obtain ⟨rfl, -⟩ := vpNopPart_ok.1 hok
    rfl
  | vpAlloc len b => exact absurd rfl (halloc len b)
  | vpWrite off b => exact absurd rfl (hwrite off b)
  | vpPush a b =>
    change varWEdge s (vpWord s.var.cfg 3 a b) (vpPushPart s.var) = .next t at h
    refine varWEdge_keeps_mem (fun v r hok => ?_) h
    obtain ⟨-, rfl, -⟩ := vpPushPart_ok.1 hok
    rfl
  | _ => cases hp

theorem exec_keeps_fixed_mem (hi : ∀ data, i ≠ .fpWrite data) (h : exec i s = .next t) :
    t.fixed.mem = s.fixed.mem := by
  cases hk : i.port.kind with
  | fixedSlot =>
    obtain hp | hp := Port.fixedSlot_cases hk
    · exact exec_fp_keeps_mem hp hi h
    · obtain ⟨part, hpart, hexec⟩ := exec_fc hp
      exact fixedREdge_keeps_mem hpart (hexec s s.var.cfg ▸ h)
  | variableLength => rw [exec_var_keeps_fixed hk h]

theorem exec_keeps_var_mem (halloc : ∀ len b, i ≠ .vpAlloc len b) (hwrite : ∀ off b, i ≠ .vpWrite off b)
    (h : exec i s = .next t) : t.var.mem = s.var.mem := by
  cases hk : i.port.kind with
  | fixedSlot => rw [exec_fixed_keeps_var hk h]
  | variableLength =>
    obtain hp | hp := Port.variableLength_cases hk
    · exact exec_vp_keeps_mem hp halloc hwrite h
    · obtain ⟨part, hpart, hexec⟩ := exec_vc hp
      exact varREdge_keeps_mem hpart (hexec s ▸ h)

/-! ### What the other domain cannot see (10_state.md R36, R40)

A domain reads the other domain's Gray register and none of its other registers. Replacing those others therefore
commutes with every command part and every edge of the domain. -/

/-- `f` with the read domain's registers of `g`, but for the Gray register. -/
def Fixed.withReadSideOf (f g : Fixed) : Fixed := { f with head := g.head, rpub := g.rpub, wsync := g.wsync }

/-- `f` with the write domain's registers of `g`, but for the Gray register. -/
def Fixed.withWriteSideOf (f g : Fixed) : Fixed :=
  { f with tail := g.tail, resv := g.resv, wpub := g.wpub, rsync := g.rsync }

/-- `v` with the read domain's registers of `u`, but for the Gray register. -/
def Variable.withReadSideOf (v u : Variable) : Variable :=
  { v with head := u.head, rpub := u.rpub, wsync := u.wsync }

/-- `v` with the write domain's registers of `u`, but for the Gray register. -/
def Variable.withWriteSideOf (v u : Variable) : Variable :=
  { v with
    tail := u.tail, resv := u.resv, resvOff := u.resvOff, resvTotal := u.resvTotal, resvLen := u.resvLen
    wpub := u.wpub, rsync := u.rsync }

theorem Fixed.eq_withReadSideOf {f g : Fixed} (hcfg : g.cfg = f.cfg) (hmem : g.mem = f.mem)
    (hfault : g.fault = f.fault) (hside : f.SameWriteSide g) (hgray : g.rgray = f.rgray) :
    g = f.withReadSideOf g := by
  obtain ⟨htail, hresv, hwpub, hwgray, hrsync⟩ := hside
  cases g
  simp_all [Fixed.withReadSideOf]

theorem Fixed.eq_withWriteSideOf {f g : Fixed} (hcfg : g.cfg = f.cfg) (hmem : g.mem = f.mem)
    (hfault : g.fault = f.fault) (hside : f.SameReadSide g) (hgray : g.wgray = f.wgray) :
    g = f.withWriteSideOf g := by
  obtain ⟨hhead, hrpub, hrgray, hwsync⟩ := hside
  cases g
  simp_all [Fixed.withWriteSideOf]

theorem Variable.eq_withReadSideOf {v u : Variable} (hcfg : u.cfg = v.cfg) (hmem : u.mem = v.mem)
    (hfault : u.fault = v.fault) (hside : v.SameWriteSide u) (hgray : u.rgray = v.rgray) :
    u = v.withReadSideOf u := by
  obtain ⟨htail, ⟨hresv, hoff, htotal, hlen⟩, hwpub, hwgray, hrsync⟩ := hside
  cases u
  simp_all [Variable.withReadSideOf]

theorem Variable.eq_withWriteSideOf {v u : Variable} (hcfg : u.cfg = v.cfg) (hmem : u.mem = v.mem)
    (hfault : u.fault = v.fault) (hside : v.SameReadSide u) (hgray : u.wgray = v.wgray) :
    u = v.withWriteSideOf u := by
  obtain ⟨hhead, hrpub, hrgray, hwsync⟩ := hside
  cases u
  simp_all [Variable.withWriteSideOf]

/-- The command part does the same, and answers the same, whatever the read domain's hidden registers hold. -/
def Fixed.IgnoresReadSide (part : Fixed → Except Stop (Fixed × FpResp)) : Prop :=
  ∀ f g, part (f.withReadSideOf g) = (part f).map (Prod.map (·.withReadSideOf g) id)

/-- The command part does the same, and answers the same, whatever the write domain's hidden registers hold. -/
def Fixed.IgnoresWriteSide (part : Fixed → Except Stop (Fixed × FcResp)) : Prop :=
  ∀ f g, part (f.withWriteSideOf g) = (part f).map (Prod.map (·.withWriteSideOf g) id)

/-- The command part does the same, and answers the same, whatever the read domain's hidden registers hold. -/
def Variable.IgnoresReadSide (part : Variable → Except Stop (Variable × VpResp)) : Prop :=
  ∀ v u, part (v.withReadSideOf u) = (part v).map (Prod.map (·.withReadSideOf u) id)

/-- The command part does the same, and answers the same, whatever the write domain's hidden registers hold. -/
def Variable.IgnoresWriteSide (part : Variable → Except Stop (Variable × VcResp)) : Prop :=
  ∀ v u, part (v.withWriteSideOf u) = (part v).map (Prod.map (·.withWriteSideOf u) id)

theorem fpNopPart_ignoresReadSide : Fixed.IgnoresReadSide fpNopPart := fun _ _ => rfl

theorem fpAllocPart_ignoresReadSide : Fixed.IgnoresReadSide fpAllocPart := fun f g => by
  have hheadW : (f.withReadSideOf g).headW = f.headW := rfl
  rw [fpAllocPart, fpAllocPart, hheadW]
  by_cases hfull : (f.tail + 1) % f.cfg.slots = f.headW <;>
    simp [hfull, Fixed.withReadSideOf, Except.map]

theorem fpWritePart_ignoresReadSide (data : Nat) : Fixed.IgnoresReadSide (fpWritePart · data) := fun f g => by
  cases hresv : f.resv
  · simp [fpWritePart, hresv, Fixed.withReadSideOf, Except.map]
  · cases hmem : writeCell f.cfg.slots f.mem f.tail data <;>
      simp [fpWritePart, hresv, hmem, Fixed.withReadSideOf, Except.map]

theorem fpPushPart_ignoresReadSide : Fixed.IgnoresReadSide fpPushPart := fun f g => by
  cases hresv : f.resv <;> simp [fpPushPart, hresv, Fixed.withReadSideOf, Except.map]

theorem fcNopPart_ignoresWriteSide : Fixed.IgnoresWriteSide fcNopPart := fun _ _ => rfl

theorem fcFrontPart_ignoresWriteSide : Fixed.IgnoresWriteSide fcFrontPart := fun f g => by
  have htailR : (f.withWriteSideOf g).tailR = f.tailR := rfl
  rw [fcFrontPart, fcFrontPart, htailR]
  by_cases hempty : f.head = f.tailR
  · simp [hempty, Fixed.withWriteSideOf, Except.map]
  · rcases hread : readCell f.cfg.slots f.mem f.head with e | _ | d <;>
      simp [hempty, hread, Fixed.withWriteSideOf, Except.map]

theorem fcPopPart_ignoresWriteSide : Fixed.IgnoresWriteSide fcPopPart := fun f g => by
  have htailR : (f.withWriteSideOf g).tailR = f.tailR := rfl
  rw [fcPopPart, fcPopPart, htailR]
  by_cases hempty : f.head = f.tailR <;> simp [hempty, Fixed.withWriteSideOf, Except.map]

theorem fcReservedPart_ignoresWriteSide : Fixed.IgnoresWriteSide fcReservedPart := fun _ _ => rfl

theorem vpNopPart_ignoresReadSide : Variable.IgnoresReadSide vpNopPart := fun _ _ => rfl

theorem vpAllocPart_ignoresReadSide (len : Nat) : Variable.IgnoresReadSide (vpAllocPart · len) := fun v u => by
  have hplace : vPlace (v.withReadSideOf u) len = vPlace v len := rfl
  have hmem : ∀ p, allocMem (v.withReadSideOf u) p len = allocMem v p len := fun _ => rfl
  simp only [vpAllocPart, hplace, hmem]
  rcases vPlace v len with _ | p
  · rfl
  · simp only
    rcases allocMem v p len with e | m <;> rfl

theorem vpWritePart_ignoresReadSide (off : Nat) (b : Byte) : Variable.IgnoresReadSide (vpWritePart · off b) :=
  fun v u => by
  cases hresv : v.resv
  · simp [vpWritePart, hresv, Variable.withReadSideOf, Except.map]
  · by_cases hrange : v.resvLen ≤ off
    · simp [vpWritePart, hresv, hrange, Variable.withReadSideOf, Except.map]
    · cases hmem : writeCell v.cfg.capacity v.mem (payloadAddr v.resvOff off) b <;>
        simp [vpWritePart, hresv, hrange, hmem, Variable.withReadSideOf, Except.map]

theorem vpPushPart_ignoresReadSide : Variable.IgnoresReadSide vpPushPart := fun v u => by
  cases hresv : v.resv <;> simp [vpPushPart, hresv, Variable.withReadSideOf, Except.map]

theorem vcNopPart_ignoresWriteSide : Variable.IgnoresWriteSide vcNopPart := fun _ _ => rfl

theorem vFrontView_withWriteSideOf (v u : Variable) : vFrontView (v.withWriteSideOf u) = vFrontView v := rfl

theorem vcFrontPart_ignoresWriteSide : Variable.IgnoresWriteSide vcFrontPart := fun v u => by
  rw [vcFrontPart, vcFrontPart, vFrontView_withWriteSideOf]
  rcases vFrontView v with e | _ | m <;> rfl

theorem vcReadPart_ignoresWriteSide (off : Nat) : Variable.IgnoresWriteSide (vcReadPart · off) := fun v u => by
  simp only [vcReadPart, vFrontView_withWriteSideOf]
  rcases vFrontView v with e | _ | m
  · rfl
  · rfl
  · by_cases hrange : m.len ≤ off
    · simp [hrange, Except.map]
    · rcases hread : readCell v.cfg.capacity v.mem (payloadAddr m.off off) with e | _ | b <;>
        simp [hrange, hread, Variable.withWriteSideOf, Except.map]

theorem vcPopPart_ignoresWriteSide : Variable.IgnoresWriteSide vcPopPart := fun v u => by
  rw [vcPopPart, vcPopPart, vFrontView_withWriteSideOf]
  rcases vFrontView v with e | _ | m <;> rfl

/-! ### So an edge of a domain ignores the other domain's hidden registers -/

theorem fixedWEdge_of_eq_withReadSideOf {part : Fixed → Except Stop (Fixed × FpResp)}
    (hpart : Fixed.IgnoresReadSide part) {g : Fixed} (hs : s'.fixed = s.fixed.withReadSideOf g)
    (h : fixedWEdge s w (part s.fixed) = .next t) :
    fixedWEdge s' w (part s'.fixed) = .next (s'.putFixed (t.fixed.withReadSideOf g) t.resp) := by
  rw [fixedWEdge_next, hs, hpart]
  obtain ⟨hf, rfl⟩ | ⟨hf, code, hp, rfl⟩ | ⟨hf, f, r, hp, rfl⟩ := fixedWEdge_next.1 h
  · exact .inl ⟨hf, rfl⟩
  · exact .inr (.inl ⟨hf, code, by rw [hp]; rfl, rfl⟩)
  · exact .inr (.inr ⟨hf, _, r, by rw [hp]; rfl, rfl⟩)

theorem fixedREdge_of_eq_withWriteSideOf {part : Fixed → Except Stop (Fixed × FcResp)}
    (hpart : Fixed.IgnoresWriteSide part) {g : Fixed} (hs : s'.fixed = s.fixed.withWriteSideOf g)
    (h : fixedREdge s w (part s.fixed) = .next t) :
    fixedREdge s' w (part s'.fixed) = .next (s'.putFixed (t.fixed.withWriteSideOf g) t.resp) := by
  rw [fixedREdge_next, hs, hpart]
  obtain ⟨hf, rfl⟩ | ⟨hf, code, hp, rfl⟩ | ⟨hf, f, r, hp, rfl⟩ := fixedREdge_next.1 h
  · exact .inl ⟨hf, rfl⟩
  · exact .inr (.inl ⟨hf, code, by rw [hp]; rfl, rfl⟩)
  · exact .inr (.inr ⟨hf, _, r, by rw [hp]; rfl, rfl⟩)

theorem varWEdge_of_eq_withReadSideOf {part : Variable → Except Stop (Variable × VpResp)}
    (hpart : Variable.IgnoresReadSide part) {u : Variable} (hs : s'.var = s.var.withReadSideOf u)
    (h : varWEdge s w (part s.var) = .next t) :
    varWEdge s' w (part s'.var) = .next (s'.putVar (t.var.withReadSideOf u) t.resp) := by
  rw [varWEdge_next, hs, hpart]
  obtain ⟨hf, rfl⟩ | ⟨hf, code, hp, rfl⟩ | ⟨hf, v, r, hp, rfl⟩ := varWEdge_next.1 h
  · exact .inl ⟨hf, rfl⟩
  · exact .inr (.inl ⟨hf, code, by rw [hp]; rfl, rfl⟩)
  · exact .inr (.inr ⟨hf, _, r, by rw [hp]; rfl, rfl⟩)

theorem varREdge_of_eq_withWriteSideOf {part : Variable → Except Stop (Variable × VcResp)}
    (hpart : Variable.IgnoresWriteSide part) {u : Variable} (hs : s'.var = s.var.withWriteSideOf u)
    (h : varREdge s w (part s.var) = .next t) :
    varREdge s' w (part s'.var) = .next (s'.putVar (t.var.withWriteSideOf u) t.resp) := by
  rw [varREdge_next, hs, hpart]
  obtain ⟨hf, rfl⟩ | ⟨hf, code, hp, rfl⟩ | ⟨hf, v, r, hp, rfl⟩ := varREdge_next.1 h
  · exact .inl ⟨hf, rfl⟩
  · exact .inr (.inl ⟨hf, code, by rw [hp]; rfl, rfl⟩)
  · exact .inr (.inr ⟨hf, _, r, by rw [hp]; rfl, rfl⟩)

theorem exec_fp_ignoresReadSide (hp : i.port = .fp) :
    ∃ part, Fixed.IgnoresReadSide part ∧ ∀ s vc, exec i s = fixedWEdge s (encode vc i) (part s.fixed) := by
  cases i with
  | fpNop data => exact ⟨_, fpNopPart_ignoresReadSide, fun _ _ => rfl⟩
  | fpAlloc data => exact ⟨_, fpAllocPart_ignoresReadSide, fun _ _ => rfl⟩
  | fpWrite data => exact ⟨_, fpWritePart_ignoresReadSide data, fun _ _ => rfl⟩
  | fpPush data => exact ⟨_, fpPushPart_ignoresReadSide, fun _ _ => rfl⟩
  | _ => cases hp

/-- A command of the FP port does the same whatever the read domain's hidden registers hold, and keeps them. -/
theorem exec_fp_of_eq_withReadSideOf {g : Fixed} (hp : i.port = .fp)
    (hs : s'.fixed = s.fixed.withReadSideOf g) (h : exec i s = .next t) :
    exec i s' = .next (s'.putFixed (t.fixed.withReadSideOf g) t.resp) := by
  obtain ⟨part, hpart, hexec⟩ := exec_fp_ignoresReadSide hp
  rw [hexec _ s.var.cfg] at h ⊢
  exact fixedWEdge_of_eq_withReadSideOf hpart hs h

theorem exec_fc_ignoresWriteSide (hp : i.port = .fc) :
    ∃ part, Fixed.IgnoresWriteSide part ∧ ∀ s vc, exec i s = fixedREdge s (encode vc i) (part s.fixed) := by
  cases i with
  | fcNop => exact ⟨_, fcNopPart_ignoresWriteSide, fun _ _ => rfl⟩
  | fcFront => exact ⟨_, fcFrontPart_ignoresWriteSide, fun _ _ => rfl⟩
  | fcPop => exact ⟨_, fcPopPart_ignoresWriteSide, fun _ _ => rfl⟩
  | fcReserved => exact ⟨_, fcReservedPart_ignoresWriteSide, fun _ _ => rfl⟩
  | _ => cases hp

/-- A command of the FC port does the same whatever the write domain's hidden registers hold, and keeps them. -/
theorem exec_fc_of_eq_withWriteSideOf {g : Fixed} (hp : i.port = .fc)
    (hs : s'.fixed = s.fixed.withWriteSideOf g) (h : exec i s = .next t) :
    exec i s' = .next (s'.putFixed (t.fixed.withWriteSideOf g) t.resp) := by
  obtain ⟨part, hpart, hexec⟩ := exec_fc_ignoresWriteSide hp
  rw [hexec _ s.var.cfg] at h ⊢
  exact fixedREdge_of_eq_withWriteSideOf hpart hs h

theorem exec_vp_ignoresReadSide (hp : i.port = .vp) :
    ∃ part, Variable.IgnoresReadSide part ∧ ∀ s, exec i s = varWEdge s (encode s.var.cfg i) (part s.var) := by
  cases i with
  | vpNop a b => exact ⟨_, vpNopPart_ignoresReadSide, fun _ => rfl⟩
  | vpAlloc len b => exact ⟨_, vpAllocPart_ignoresReadSide len, fun _ => rfl⟩
  | vpWrite off b => exact ⟨_, vpWritePart_ignoresReadSide off b, fun _ => rfl⟩
  | vpPush a b => exact ⟨_, vpPushPart_ignoresReadSide, fun _ => rfl⟩
  | _ => cases hp

/-- A command of the VP port does the same whatever the read domain's hidden registers hold, and keeps them. -/
theorem exec_vp_of_eq_withReadSideOf {u : Variable} (hp : i.port = .vp)
    (hs : s'.var = s.var.withReadSideOf u) (h : exec i s = .next t) :
    exec i s' = .next (s'.putVar (t.var.withReadSideOf u) t.resp) := by
  obtain ⟨part, hpart, hexec⟩ := exec_vp_ignoresReadSide hp
  have hcfg : s'.var.cfg = s.var.cfg := by rw [hs]; rfl
  rw [hexec] at h ⊢
  rw [hcfg]
  exact varWEdge_of_eq_withReadSideOf hpart hs h

theorem exec_vc_ignoresWriteSide (hp : i.port = .vc) :
    ∃ part, Variable.IgnoresWriteSide part ∧ ∀ s, exec i s = varREdge s (encode s.var.cfg i) (part s.var) := by
  cases i with
  | vcNop a => exact ⟨_, vcNopPart_ignoresWriteSide, fun _ => rfl⟩
  | vcFront a => exact ⟨_, vcFrontPart_ignoresWriteSide, fun _ => rfl⟩
  | vcRead off => exact ⟨_, vcReadPart_ignoresWriteSide off, fun _ => rfl⟩
  | vcPop a => exact ⟨_, vcPopPart_ignoresWriteSide, fun _ => rfl⟩
  | _ => cases hp

/-- A command of the VC port does the same whatever the write domain's hidden registers hold, and keeps them. -/
theorem exec_vc_of_eq_withWriteSideOf {u : Variable} (hp : i.port = .vc)
    (hs : s'.var = s.var.withWriteSideOf u) (h : exec i s = .next t) :
    exec i s' = .next (s'.putVar (t.var.withWriteSideOf u) t.resp) := by
  obtain ⟨part, hpart, hexec⟩ := exec_vc_ignoresWriteSide hp
  have hcfg : s'.var.cfg = s.var.cfg := by rw [hs]; rfl
  rw [hexec] at h ⊢
  rw [hcfg]
  exact varREdge_of_eq_withWriteSideOf hpart hs h

end

/-! ### The state after reset (10_state.md R48) -/

/-- A chain that stands still has length 0. -/
theorem chainLength_eq_zero {m a : Nat} {l : List Nat} (ha : a < m) (h : ∀ x ∈ l, x = a) :
    chainLength m l = 0 := by
  induction l with
  | nil => rfl
  | cons x l ih =>
    cases l with
    | nil => rfl
    | cons y l =>
      have hx : x = a := h x (by simp)
      have hy : y = a := h y (by simp)
      rw [chainLength, ih fun z hz => h z (List.mem_cons_of_mem _ hz), hx, hy, cdist_self ha]

@[simp] theorem lastStage_replicate_zero (stages n : Nat) : lastStage stages (List.replicate n 0) = 0 := by
  rw [lastStage, List.getD_eq_getElem?_getD, List.getElem?_replicate]
  split <;> rfl

@[simp] theorem segments_zero (c : VarConfig) (m : List Host.Cell) (fuel h : Nat) :
    segments c m fuel h 0 = some [] := by
  cases fuel <;> rfl

@[simp] theorem Fixed.headW_powerUp (c : FixedConfig) : (Fixed.powerUp c).headW = 0 := by
  simp [Fixed.headW, Fixed.powerUp]

@[simp] theorem Variable.headW_powerUp (c : VarConfig) : (Variable.powerUp c).headW = 0 := by
  simp [Variable.headW, Variable.powerUp]

theorem Fixed.eq_zero_of_mem_chain_powerUp (c : FixedConfig) :
    ∀ x ∈ (Fixed.powerUp c).chain, x = 0 := fun x hx => by
  simp only [Fixed.chain, Fixed.powerUp, List.reverse_replicate, List.map_replicate, gray2bin_zero,
    List.mem_append, List.mem_replicate, List.mem_cons, List.not_mem_nil, or_false] at hx
  omega

theorem Variable.eq_zero_of_mem_chain_powerUp (c : VarConfig) :
    ∀ x ∈ (Variable.powerUp c).chain, x = 0 := fun x hx => by
  simp only [Variable.chain, Variable.powerUp, Variable.offsetOf, List.reverse_replicate, List.map_replicate,
    gray2bin_zero, Nat.zero_mul, List.mem_append, List.mem_replicate, List.mem_cons, List.not_mem_nil, or_false] at hx
  omega

theorem Fixed.sized_powerUp (c : FixedConfig) : (Fixed.powerUp c).Sized := by
  simp [Fixed.powerUp, slots_pos]

theorem Variable.sized_powerUp (c : VarConfig) : (Variable.powerUp c).Sized := by
  simp [Variable.powerUp, blocks_pos, capacity_pos]

theorem Fixed.chainOk_powerUp (c : FixedConfig) : (Fixed.powerUp c).ChainOk := by
  have hdist : cdist (Fixed.powerUp c).headW (Fixed.powerUp c).tail c.slots = 0 := by
    rw [Fixed.headW_powerUp]
    exact cdist_self (slots_pos c)
  have hchain := chainLength_eq_zero (slots_pos c) (Fixed.eq_zero_of_mem_chain_powerUp c)
  exact ⟨hchain.trans hdist.symm, hdist.trans_le (Nat.zero_le _)⟩

theorem Variable.chainOk_powerUp (c : VarConfig) : (Variable.powerUp c).ChainOk := by
  have hdist : cdist (Variable.powerUp c).headW (Variable.powerUp c).tail c.capacity = 0 := by
    rw [Variable.headW_powerUp]
    exact cdist_self (capacity_pos c)
  have hchain := chainLength_eq_zero (capacity_pos c) (Variable.eq_zero_of_mem_chain_powerUp c)
  exact ⟨hchain.trans hdist.symm, hdist.trans_le (Nat.zero_le _)⟩

theorem Variable.unread_powerUp (c : VarConfig) : (Variable.powerUp c).unread = some [] := by
  have hdist : cdist 0 0 c.capacity = 0 := cdist_self (capacity_pos c)
  simp [Variable.unread, Variable.powerUp, hdist]

theorem Fixed.inv_powerUp (c : FixedConfig) : (Fixed.powerUp c).Inv :=
  ⟨Fixed.sized_powerUp c, ⟨bin2gray_zero.symm, bin2gray_zero.symm⟩, Fixed.chainOk_powerUp c, nofun⟩

theorem Variable.inv_powerUp (c : VarConfig) : (Variable.powerUp c).Inv := by
  refine ⟨Variable.sized_powerUp c, ⟨Nat.zero_mod _, Nat.zero_mod _, nofun⟩,
    ⟨bin2gray_zero.symm, bin2gray_zero.symm⟩, Variable.chainOk_powerUp c, nofun, ?_⟩
  rw [Variable.unread_powerUp]
  rfl

theorem Fixed.settled_powerUp (c : FixedConfig) : (Fixed.powerUp c).Settled :=
  ⟨rfl, rfl, fun _ => List.eq_of_mem_replicate, fun _ => List.eq_of_mem_replicate⟩

theorem Variable.settled_powerUp (c : VarConfig) : (Variable.powerUp c).Settled :=
  ⟨Nat.zero_mul _, Nat.zero_mul _, fun _ => List.eq_of_mem_replicate, fun _ => List.eq_of_mem_replicate⟩

end Sys2Proof.Machine

/-! ### The statements -/

namespace Sys2Proof.Proofs

open Sys2Proof.Machine

/-- Settles O24: a command part writes its own domain's registers and storage alone, and so do the publish step and
the synchroniser shift around it. -/
theorem eachRegisterHasOneWriterDomain : Obligations.EachRegisterHasOneWriterDomain :=
  fun _ _ _ h => ⟨fun hd => exec_write_sameReadSide hd h, fun hd => exec_read_sameWriteSide hd h⟩

/-- Settles O25: no edge writes storage, and of the command parts only those of the three commands named do. -/
theorem storageIsWrittenOnlyByItsCommands : Obligations.StorageIsWrittenOnlyByItsCommands :=
  fun _ _ _ h => ⟨fun hi => exec_keeps_fixed_mem hi h, fun halloc hwrite => exec_keeps_var_mem halloc hwrite h⟩

/-- Settles O27: two states that agree on what a domain sees differ in the other domain's hidden registers alone, and
replacing those commutes with every command of the domain. -/
theorem onlyGrayRegistersAndStorageCross : Obligations.OnlyGrayRegistersAndStorageCross := by
  intro i s s' t h hfcfg hfmem hffault hvcfg hvmem hvfault
  refine ⟨fun hp hside hgray => ?_, fun hp hside hgray => ?_, fun hp hside hgray => ?_, fun hp hside hgray => ?_⟩
  · have hs := Fixed.eq_withReadSideOf hfcfg hfmem hffault hside hgray
    exact ⟨_, exec_fp_of_eq_withReadSideOf hp hs h, t.fixed.sameWriteSide_refl, rfl, rfl, rfl⟩
  · have hs := Fixed.eq_withWriteSideOf hfcfg hfmem hffault hside hgray
    exact ⟨_, exec_fc_of_eq_withWriteSideOf hp hs h, t.fixed.sameReadSide_refl, rfl, rfl⟩
  · have hs := Variable.eq_withReadSideOf hvcfg hvmem hvfault hside hgray
    exact ⟨_, exec_vp_of_eq_withReadSideOf hp hs h, t.var.sameWriteSide_refl, rfl, rfl, rfl⟩
  · have hs := Variable.eq_withWriteSideOf hvcfg hvmem hvfault hside hgray
    exact ⟨_, exec_vc_of_eq_withWriteSideOf hp hs h, t.var.sameReadSide_refl, rfl, rfl⟩

/-- Settles O46: after reset every pointer, Gray register and stage is 0, so the chain has length 0 and nothing is
unread. -/
theorem invariantsHoldAfterReset : Obligations.InvariantsHoldAfterReset := fun fc vc =>
  ⟨⟨Fixed.inv_powerUp fc, Variable.inv_powerUp vc⟩, ⟨.inl rfl, .inl rfl⟩,
    Fixed.settled_powerUp fc, Variable.settled_powerUp vc, rfl, rfl⟩

end Sys2Proof.Proofs

/-!
PROOFS of the memory's statements (20_memory.md): no command names an address outside storage, so every presented
command completes; and no command writes storage that is pushed and not yet popped. The facts about the model come
first; the statements are settled at the end.
-/

namespace Sys2Proof

open Machine

/-! ### Every word of a port's width is a command of that port (30_encoding.md R100, R111) -/

theorem decode_of_lt {fc : FixedConfig} {vc : VarConfig} {port : Port} {w : Nat}
    (hw : w < 2 ^ portWidth fc vc port) : ∃ i, decode fc vc port w = .ok i := by
  unfold decode
  rw [if_neg (Nat.not_le.2 hw)]
  cases port <;> exact ⟨_, rfl⟩

theorem decode_port {fc : FixedConfig} {vc : VarConfig} {port : Port} {w : Nat} {i : Instr}
    (h : decode fc vc port w = .ok i) : i.port = port := by
  obtain ⟨-, ⟨rfl, rfl⟩ | ⟨rfl, rfl⟩ | ⟨rfl, rfl⟩ | ⟨rfl, rfl⟩⟩ := decode_ok h
  · unfold decodeFp; split <;> rfl
  · unfold decodeFc; split <;> rfl
  · unfold decodeVp; split <;> rfl
  · unfold decodeVc; split <;> rfl

end Sys2Proof

namespace Sys2Proof.Machine

theorem step_of_nil {s : State} (hp : s.pending = []) : step s = .next s := by
  simp only [step, hp]

theorem step_reset {s : State} {kind : Kind} {rest : List Event} (hp : s.pending = .reset kind :: rest) :
    step s = resetStep { s with pending := rest } kind := by
  simp only [step, hp]

theorem resetStep_completes (s : State) (kind : Kind) : ∃ t, resetStep s kind = .next t := by
  cases kind <;> exact ⟨_, rfl⟩

/-! ### Headers and messages lie inside storage (20_memory.md R74; 10_state.md R49) -/

section
variable {c : VarConfig} {m : List Host.Cell} {o : Nat}

theorem eight_le_block (c : VarConfig) : 8 ≤ c.block := by
  obtain ⟨-, -, hk, -⟩ := c.legal
  exact Nat.pow_le_pow_right (n := 2) (by decide) hk

/-- A block-aligned offset has a whole header inside storage (R49). -/
theorem header_fits_of_aligned (ho : o < c.capacity) (haligned : o % c.block = 0) : o + 8 ≤ c.capacity := by
  obtain ⟨q, rfl⟩ := Nat.dvd_of_mod_eq_zero haligned
  rw [← blocks_mul_block, Nat.mul_comm c.blocks] at ho ⊢
  have hq : c.block * (q + 1) ≤ c.block * c.blocks := Nat.mul_le_mul_left _ (Nat.lt_of_mul_lt_mul_left ho)
  have hblock := eight_le_block c
  rw [Nat.mul_succ] at hq
  omega

theorem header_fits_at_zero (c : VarConfig) : 0 + 8 ≤ c.capacity :=
  header_fits_of_aligned (capacity_pos c) (Nat.zero_mod _)

theorem le_totalOf (c : VarConfig) (len : Nat) : 8 + len ≤ totalOf c len := le_roundup _ (block_pos c)

theorem headerOfWords_message {w0 w1 total len : Nat} (h : headerOfWords c o w0 w1 = .ok (.message total len)) :
    total = totalOf c len ∧ total ≤ c.capacity - c.block ∧ o + total ≤ c.capacity := by
  unfold headerOfWords at h
  split at h
  · split at h <;> cases h
  · split at h
    · cases h
    · cases h; omega

/-- A header that decodes as a message has passed R173's checks. -/
theorem hdrDecode_message {total len : Nat} (h : hdrDecode c m o = .ok (.message total len)) :
    total = totalOf c len ∧ total ≤ c.capacity - c.block ∧ o + total ≤ c.capacity := by
  unfold hdrDecode at h
  split at h
  · cases h
  · cases h
  · exact headerOfWords_message h
  · cases h

/-- Every payload byte of a message whose header decodes lies inside its extent. -/
theorem payloadAddr_lt_of_message {total len off : Nat} (h : hdrDecode c m o = .ok (.message total len))
    (hoff : off < len) : payloadAddr o off < o + total ∧ o + total ≤ c.capacity := by
  obtain ⟨htotal, -, hfit⟩ := hdrDecode_message h
  have hlen := le_totalOf c len
  exact ⟨by unfold payloadAddr hdrBytes; omega, hfit⟩

theorem hdrDecode_of_messageAt {total len : Nat} (h : messageAt c m o total len = true) :
    hdrDecode c m o = .ok (.message total len) := by
  unfold messageAt at h
  split at h
  · next hd =>
    obtain ⟨rfl, rfl⟩ := of_decide_eq_true h
    exact hd
  · cases h

/-- A message that is among the published bytes is the one whose header stands at its offset (R183). -/
theorem visibleIf_eq_some {d base p total len : Nat} {x : Visible} (h : visibleIf d base p total len = some x) :
    x = { off := p, total := total, len := len } := by
  unfold visibleIf at h
  split at h <;> cases h
  rfl

/-- What `VFrontView` shows has its header in storage at its offset (R183). -/
theorem vFrontView_header {v : Variable} {x : Visible} (h : vFrontView v = .ok (some x)) :
    hdrDecode v.cfg v.mem x.off = .ok (.message x.total x.len) := by
  simp only [vFrontView, vFrontViewAt] at h
  split at h
  · cases h
  · split at h
    · cases h
    · next hd =>
      rw [visibleIf_eq_some (Except.ok.inj h), hd]
    · split at h
      · cases h
      · split at h
        · cases h
        · cases h
        · next hd => rw [visibleIf_eq_some (Except.ok.inj h), hd]

/-- Where R177 places a message, with `t = v_tail` and `h = v_head_w`: at the tail with the head behind it, at 0
behind a sentinel, or at the tail with the head ahead of it. -/
theorem vPlaceAt_some {t h len : Nat} {p : Placement} (hp : vPlaceAt c t h len = some p) :
    8 + len ≤ p.total ∧
      ((h ≤ t ∧ p.off = t ∧ p.wrap = false ∧ t + p.total ≤ c.capacity) ∨
        (h ≤ t ∧ p.off = 0 ∧ p.wrap = true ∧ p.total < h) ∨
        (t < h ∧ p.off = t ∧ p.wrap = false ∧ t + p.total < h)) := by
  have hlen := le_totalOf c len
  simp only [vPlaceAt] at hp
  split at hp
  · next hle =>
    split at hp
    · next hfit =>
      cases hp
      exact ⟨hlen, .inl ⟨hle, rfl, rfl, hfit.elim Nat.le_of_lt fun hend => hend.1.le⟩⟩
    · split at hp
      · next hfit =>
        cases hp
        exact ⟨hlen, .inr (.inl ⟨hle, rfl, rfl, hfit⟩)⟩
      · cases hp
  · next hlt =>
    split at hp
    · next hfit =>
      cases hp
      exact ⟨hlen, .inr (.inr ⟨Nat.not_le.1 hlt, rfl, rfl, hfit⟩)⟩
    · cases hp

end

/-! ### No command part names an address outside storage (20_memory.md R74) -/

/-- A command part that answers or raises a fault of the model: it names no address outside storage. -/
def Completes {α : Type} (p : Except Stop α) : Prop := ∀ a, p ≠ .error (.noAddress a)

theorem completes_ok {α : Type} (x : α) : Completes (.ok x) := nofun

theorem completes_record {α : Type} (code : FaultCode) : Completes (.error (.record code) : Except Stop α) := nofun

/-- A part that passes on the error of a part that completes, completes. -/
theorem Completes.of_eq_error {α β : Type} {p : Except Stop α} (h : Completes p) {e : Stop} (hp : p = .error e) :
    Completes (.error e : Except Stop β) := by
  rintro a he
  cases he
  exact h a hp

section
variable {f : Fixed} {v : Variable}

theorem fpNopPart_completes (f : Fixed) : Completes (fpNopPart f) := completes_ok _

theorem fpAllocPart_completes (f : Fixed) : Completes (fpAllocPart f) := by
  unfold fpAllocPart
  split <;> exact completes_ok _

theorem fpWritePart_completes (htail : f.tail < f.cfg.slots) (data : Nat) : Completes (fpWritePart f data) := by
  rw [fpWritePart, writeCell, if_pos htail]
  split
  · exact completes_record _
  · exact completes_ok _

theorem fpPushPart_completes (f : Fixed) : Completes (fpPushPart f) := by
  unfold fpPushPart
  split
  · exact completes_record _
  · exact completes_ok _

theorem fcNopPart_completes (f : Fixed) : Completes (fcNopPart f) := completes_ok _

theorem fcFrontPart_completes (hhead : f.head < f.cfg.slots) : Completes (fcFrontPart f) := by
  rw [fcFrontPart, readCell, if_pos hhead]
  split
  · exact completes_ok _
  · cases storeRead f.mem f.head
    · exact completes_record _
    · exact completes_ok _

theorem fcPopPart_completes (f : Fixed) : Completes (fcPopPart f) := by
  unfold fcPopPart
  split
  · exact completes_record _
  · exact completes_ok _

theorem fcReservedPart_completes (f : Fixed) : Completes (fcReservedPart f) := completes_record _

/-- The storage a VP.ALLOC leaves exists where its two headers do (R186). -/
theorem allocMem_exists {len : Nat} {p : Placement} (htail : v.tail + 8 ≤ v.cfg.capacity)
    (hoff : p.off + 8 ≤ v.cfg.capacity) : ∃ m, allocMem v p len = .ok m := by
  obtain ⟨m, hm⟩ : ∃ m, (if p.wrap then writeSentinel v.cfg v.mem v.tail else .ok v.mem) = .ok m := by
    split
    · exact ⟨_, writeHeader_ok.2 ⟨htail, rfl⟩⟩
    · exact ⟨_, rfl⟩
  exact ⟨_, allocMem_ok.2 ⟨m, hm, writeHeader_ok.2 ⟨hoff, rfl⟩⟩⟩

theorem vpNopPart_completes (v : Variable) : Completes (vpNopPart v) := completes_ok _

theorem vpAllocPart_completes (htail : v.tail + 8 ≤ v.cfg.capacity) (len : Nat) :
    Completes (vpAllocPart v len) := by
  cases hp : vPlace v len with
  | none =>
    rw [vpAllocPart_ok.2 (.inl ⟨hp, rfl, rfl⟩)]
    exact completes_ok _
  | some p =>
    have hhead := v.headW_lt
    obtain ⟨htotal, hcases⟩ := vPlaceAt_some hp
    obtain ⟨m, hm⟩ := allocMem_exists (len := len) htail (show p.off + 8 ≤ v.cfg.capacity by omega)
    rw [vpAllocPart_ok.2 (.inr ⟨p, m, hp, hm, rfl, rfl⟩)]
    exact completes_ok _

theorem vpWritePart_completes (hmessage : v.resv = true →
    hdrDecode v.cfg v.mem v.resvOff = .ok (.message v.resvTotal v.resvLen)) (off : Nat) (b : Byte) :
    Completes (vpWritePart v off b) := by
  unfold vpWritePart
  split
  · exact completes_record _
  · next hresv =>
    split
    · exact completes_record _
    · next hlen =>
      obtain ⟨haddr, hfit⟩ :=
        payloadAddr_lt_of_message (hmessage (Bool.eq_true_of_not_eq_false hresv)) (Nat.not_le.1 hlen)
      rw [writeCell, if_pos (Nat.lt_of_lt_of_le haddr hfit)]
      exact completes_ok _

theorem vpPushPart_completes (v : Variable) : Completes (vpPushPart v) := by
  unfold vpPushPart
  split
  · exact completes_record _
  · exact completes_ok _

theorem headerOfWords_completes (c : VarConfig) (o w0 w1 : Nat) : Completes (headerOfWords c o w0 w1) := by
  unfold headerOfWords
  split <;> split
  · exact completes_record _
  · exact completes_ok _
  · exact completes_record _
  · exact completes_ok _

theorem hdrDecode_completes {c : VarConfig} {o : Nat} (ho : o + 8 ≤ c.capacity) (m : List Host.Cell) :
    Completes (hdrDecode c m o) := by
  cases h0 : leRead m o 4 with
  | none => rw [hdrDecode_of_unwritten ho (.inl h0)]; exact completes_record _
  | some w0 =>
    cases h1 : leRead m (o + 4) 4 with
    | none => rw [hdrDecode_of_unwritten ho (.inr h1)]; exact completes_record _
    | some w1 => rw [hdrDecode_of_words ho h0 h1]; exact headerOfWords_completes c o w0 w1

theorem vFrontView_completes (hhead : v.head + 8 ≤ v.cfg.capacity) : Completes (vFrontView v) := by
  have hfirst := hdrDecode_completes hhead v.mem
  have hsecond := hdrDecode_completes (header_fits_at_zero v.cfg) v.mem
  simp only [vFrontView, vFrontViewAt]
  split
  · exact completes_ok _
  · split
    · next hd => exact hfirst.of_eq_error hd
    · exact completes_ok _
    · split
      · exact completes_ok _
      · split
        · next hd => exact hsecond.of_eq_error hd
        · exact completes_record _
        · exact completes_ok _

theorem vcNopPart_completes (v : Variable) : Completes (vcNopPart v) := completes_ok _

theorem vcFrontPart_completes (hhead : v.head + 8 ≤ v.cfg.capacity) : Completes (vcFrontPart v) := by
  have hview := vFrontView_completes hhead
  unfold vcFrontPart
  rcases hx : vFrontView v with e | _ | x
  · exact hview.of_eq_error hx
  · exact completes_ok _
  · exact completes_ok _

theorem vcReadPart_completes (hhead : v.head + 8 ≤ v.cfg.capacity) (off : Nat) :
    Completes (vcReadPart v off) := by
  have hview := vFrontView_completes hhead
  unfold vcReadPart
  rcases hx : vFrontView v with e | _ | x
  · exact hview.of_eq_error hx
  · exact completes_record _
  · simp only
    split
    · exact completes_record _
    · next hlen =>
      obtain ⟨haddr, hfit⟩ := payloadAddr_lt_of_message (vFrontView_header hx) (Nat.not_le.1 hlen)
      rw [readCell, if_pos (Nat.lt_of_lt_of_le haddr hfit)]
      cases storeRead v.mem (payloadAddr x.off off)
      · exact completes_record _
      · exact completes_ok _

theorem vcPopPart_completes (hhead : v.head + 8 ≤ v.cfg.capacity) : Completes (vcPopPart v) := by
  have hview := vFrontView_completes hhead
  unfold vcPopPart
  rcases hx : vFrontView v with e | _ | x
  · exact hview.of_eq_error hx
  · exact completes_record _
  · exact completes_ok _

end

/-! ### So every command completes (41_fixed_slot_fifo.md R146) -/

section
variable {s t : State} {w : Nat} {i : Instr}

/-- An edge from `s` to `t` of the FIFO with the fault record `fault` is executed, or only consumed if the FIFO is
faulted (log 6). -/
def EdgeTaken (fault : State → Option FaultRecord) (s t : State) : Prop :=
  (fault s = none → t.resp ≠ .none ∨ fault t ≠ none) ∧ (fault s ≠ none → t = { s with resp := .none })

/-- An edge that is skipped on a faulted FIFO, and otherwise records its part's fault or takes what its part answers,
answers if its part completes. -/
theorem edge_completes {F R : Type} {fault : State → Option FaultRecord} {p : Except Stop (F × R)}
    {edge : Host.Outcome State Fault Refusal} {skipped : State}
    {faulted : FaultCode → State} {taken : F → R → State}
    (hnext : ∀ {t}, edge = .next t ↔
      (fault s ≠ none ∧ t = skipped) ∨
      (fault s = none ∧ ∃ code, p = .error (.record code) ∧ t = faulted code) ∨
      (fault s = none ∧ ∃ f r, p = .ok (f, r) ∧ t = taken f r))
    (hpart : Completes p) (hskipped : skipped = { s with resp := .none })
    (hfaulted : ∀ code, fault (faulted code) ≠ none) (htaken : ∀ f r, (taken f r).resp ≠ .none) :
    ∃ t, edge = .next t ∧ EdgeTaken fault s t := by
  by_cases hfault : fault s = none
  · obtain (code | a) | ⟨f, r⟩ := p
    · exact ⟨_, hnext.2 (.inr (.inl ⟨hfault, code, rfl, rfl⟩)), fun _ => .inr (hfaulted code), absurd hfault⟩
    · exact absurd rfl (hpart a)
    · exact ⟨_, hnext.2 (.inr (.inr ⟨hfault, f, r, rfl, rfl⟩)), fun _ => .inl (htaken f r), absurd hfault⟩
  · exact ⟨_, hnext.2 (.inl ⟨hfault, rfl⟩), fun h => absurd h hfault, fun _ => hskipped⟩

theorem fixedWEdge_completes {p : Except Stop (Fixed × FpResp)} (hpart : Completes p) :
    ∃ t, fixedWEdge s w p = .next t ∧ EdgeTaken (·.fixed.fault) s t :=
  edge_completes fixedWEdge_next hpart rfl (fun _ => nofun) (fun _ _ => nofun)

theorem fixedREdge_completes {p : Except Stop (Fixed × FcResp)} (hpart : Completes p) :
    ∃ t, fixedREdge s w p = .next t ∧ EdgeTaken (·.fixed.fault) s t :=
  edge_completes fixedREdge_next hpart rfl (fun _ => nofun) (fun _ _ => nofun)

theorem varWEdge_completes {p : Except Stop (Variable × VpResp)} (hpart : Completes p) :
    ∃ t, varWEdge s w p = .next t ∧ EdgeTaken (·.var.fault) s t :=
  edge_completes varWEdge_next hpart rfl (fun _ => nofun) (fun _ _ => nofun)

theorem varREdge_completes {p : Except Stop (Variable × VcResp)} (hpart : Completes p) :
    ∃ t, varREdge s w p = .next t ∧ EdgeTaken (·.var.fault) s t :=
  edge_completes varREdge_next hpart rfl (fun _ => nofun) (fun _ _ => nofun)

theorem exec_fixed_completes (hinv : s.fixed.Inv) (hk : i.port.kind = .fixedSlot) :
    ∃ t, exec i s = .next t ∧ EdgeTaken (·.fixed.fault) s t := by
  obtain ⟨⟨htail, -, -, hhead, -⟩, -⟩ := hinv
  cases i with
  | fpNop data => exact fixedWEdge_completes (w := fpWord 0 data) (fpNopPart_completes _)
  | fpAlloc data => exact fixedWEdge_completes (fpAllocPart_completes _)
  | fpWrite data => exact fixedWEdge_completes (fpWritePart_completes htail data)
  | fpPush data => exact fixedWEdge_completes (fpPushPart_completes _)
  | fcNop => exact fixedREdge_completes (w := fcWord 0) (fcNopPart_completes _)
  | fcFront => exact fixedREdge_completes (fcFrontPart_completes hhead)
  | fcPop => exact fixedREdge_completes (fcPopPart_completes _)
  | fcReserved => exact fixedREdge_completes (w := fcWord 3) (fcReservedPart_completes s.fixed)
  | _ => cases hk

theorem Variable.Inv.tail_header_fits {v : Variable} (hinv : v.Inv) : v.tail + 8 ≤ v.cfg.capacity := by
  obtain ⟨⟨htail, -⟩, ⟨haligned, -⟩, -⟩ := hinv
  exact header_fits_of_aligned htail haligned

theorem Variable.Inv.head_header_fits {v : Variable} (hinv : v.Inv) : v.head + 8 ≤ v.cfg.capacity := by
  obtain ⟨⟨-, -, -, -, -, -, hhead, -⟩, ⟨-, haligned, -⟩, -⟩ := hinv
  exact header_fits_of_aligned hhead haligned

theorem Variable.Inv.resv_header {v : Variable} (hinv : v.Inv) (hresv : v.resv = true) :
    hdrDecode v.cfg v.mem v.resvOff = .ok (.message v.resvTotal v.resvLen) := by
  obtain ⟨-, -, -, -, hresvOk, -⟩ := hinv
  exact hdrDecode_of_messageAt (hresvOk hresv).1

theorem exec_var_completes (hinv : s.var.Inv) (hk : i.port.kind = .variableLength) :
    ∃ t, exec i s = .next t ∧ EdgeTaken (·.var.fault) s t := by
  have hhead := hinv.head_header_fits
  cases i with
  | vpNop a b => exact varWEdge_completes (w := vpWord s.var.cfg 0 a b) (vpNopPart_completes _)
  | vpAlloc len b => exact varWEdge_completes (vpAllocPart_completes hinv.tail_header_fits len)
  | vpWrite off b => exact varWEdge_completes (vpWritePart_completes hinv.resv_header off b)
  | vpPush a b => exact varWEdge_completes (vpPushPart_completes _)
  | vcNop a => exact varREdge_completes (w := vcWord 0 a) (vcNopPart_completes _)
  | vcFront a => exact varREdge_completes (vcFrontPart_completes hhead)
  | vcRead off => exact varREdge_completes (vcReadPart_completes hhead off)
  | vcPop a => exact varREdge_completes (vcPopPart_completes hhead)
  | _ => cases hk

theorem exec_completes (hinv : s.Inv) (i : Instr) :
    ∃ t, exec i s = .next t ∧ (i.port.kind = .fixedSlot → EdgeTaken (·.fixed.fault) s t) ∧
      (i.port.kind = .variableLength → EdgeTaken (·.var.fault) s t) := by
  obtain ⟨hfixed, hvar⟩ := hinv
  cases hk : i.port.kind with
  | fixedSlot =>
    obtain ⟨t, hexec, htaken⟩ := exec_fixed_completes hfixed hk
    exact ⟨t, hexec, fun _ => htaken, nofun⟩
  | variableLength =>
    obtain ⟨t, hexec, htaken⟩ := exec_var_completes hvar hk
    exact ⟨t, hexec, nofun, fun _ => htaken⟩

end

/-! ### Chains around the ring (43_gray_pointer_sync.md R247, R248) -/

/-- No detour around the ring is shorter than the direct way (00_scope.md R14). -/
theorem cdist_triangle {m : Nat} (hm : 0 < m) (a b c : Nat) : cdist a c m ≤ cdist a b m + cdist b c m := by
  have hb := Nat.div_add_mod b m
  have hlt := Nat.mod_lt b hm
  have hsum : (b + (m - a % m)) + (c + (m - b % m)) = (c + (m - a % m)) + m * (b / m + 1) := by
    rw [Nat.mul_succ]
    omega
  calc cdist a c m = ((b + (m - a % m)) + (c + (m - b % m))) % m := by
        rw [hsum, Nat.add_mul_mod_self_left, cdist]
    _ ≤ cdist a b m + cdist b c m := by
        rw [Nat.add_mod]
        exact Nat.mod_le _ _

/-- A chain is as long as its two parts. -/
theorem chainLength_append_cons (m : Nat) (l : List Nat) (a : Nat) (l' : List Nat) :
    chainLength m (l ++ a :: l') = chainLength m (l ++ [a]) + chainLength m (a :: l') := by
  induction l with
  | nil => simp [chainLength]
  | cons x l ih =>
    cases l with
    | nil => simp [chainLength]
    | cons y l => simpa [chainLength, Nat.add_assoc] using ih

theorem cdist_le_chainLength {m : Nat} (hm : 0 < m) (a b : Nat) (l : List Nat) :
    cdist a b m ≤ chainLength m (a :: l ++ [b]) := by
  induction l generalizing a with
  | nil => simp [chainLength]
  | cons x l ih => exact (cdist_triangle hm a x b).trans (Nat.add_le_add_left (ih x) _)

/-- The last stage of a synchroniser is the first of its stages read backward (R241). -/
theorem exists_reverse_eq_lastStage_cons {stages : Nat} {sync : List Nat} (hlength : sync.length = stages)
    (hstages : 0 < stages) : ∃ l, sync.reverse = lastStage stages sync :: l := by
  obtain rfl | ⟨l, x, rfl⟩ := sync.eq_nil_or_concat
  · simp at hlength; omega
  · refine ⟨l.reverse, ?_⟩
    simp [lastStage, ← hlength]

/-- The occupied region is no longer than the producer's view of it: `v_head_w` is behind `v_head` (R244, R248). -/
theorem Variable.Inv.cdist_head_tail_le {v : Variable} (hinv : v.Inv) :
    cdist v.head v.tail v.cfg.capacity ≤ cdist v.headW v.tail v.cfg.capacity := by
  obtain ⟨hsized, -, -, ⟨hchain, -⟩, -⟩ := hinv
  obtain ⟨-, -, -, -, -, -, -, -, -, hlength, -⟩ := hsized
  obtain ⟨-, -, -, -, hstages⟩ := v.cfg.legal
  obtain ⟨l, hl⟩ := exists_reverse_eq_lastStage_cons hlength (by omega)
  have hsplit : v.chain = (v.headW :: (l.map v.offsetOf ++ [v.rpub * v.cfg.block])) ++
      v.head :: (v.wsync.reverse.map v.offsetOf ++ [v.wpub * v.cfg.block] ++ [v.tail]) := by
    simp [Variable.chain, hl, Variable.headW, Variable.offsetOf]
  rw [← hchain, hsplit, chainLength_append_cons]
  exact (cdist_le_chainLength (capacity_pos _) _ _ _).trans (Nat.le_add_left _ _)

/-! ### What the producer sees as free is not unread (20_memory.md R85) -/

/-- An element less than the free length ahead of the tail `t` is none of the `cdist(h, t)` elements from the head
`h` on. -/
theorem ne_of_lt_cdist {h t x k m : Nat} (hh : h < m) (ht : t < m) (hx : x < m)
    (hfree : cdist t x m + cdist h t m < m) (hk : k < cdist h t m) : (h + k) % m ≠ x := by
  rw [cdist_eq hh ht] at hfree hk
  rw [cdist_eq ht hx] at hfree
  by_cases hwrap : h + k < m
  · rw [Nat.mod_eq_of_lt hwrap]
    split at hk <;> split at hfree <;> omega
  · rw [Nat.mod_eq_sub_mod (Nat.not_lt.1 hwrap), Nat.mod_eq_of_lt (by split at hk <;> omega)]
    split at hk <;> split at hfree <;> omega

/-- Byte `x` is in the region the producer sees as free: from `v_tail` up to `v_head_w`, around the ring. -/
def Variable.SeenFree (v : Variable) (x : Nat) : Prop :=
  x < v.cfg.capacity ∧ cdist v.tail x v.cfg.capacity + cdist v.headW v.tail v.cfg.capacity < v.cfg.capacity

section
variable {v : Variable} {x : Nat}

/-- A pushed and unpopped byte is not seen as free. -/
theorem Variable.Inv.not_seenFree_of_unread (hinv : v.Inv) {k : Nat}
    (hk : k < cdist v.head v.tail v.cfg.capacity) : ¬v.SeenFree ((v.head + k) % v.cfg.capacity) := by
  rintro ⟨hx, hfree⟩
  have hle := hinv.cdist_head_tail_le
  obtain ⟨⟨htail, -, -, -, -, -, hhead, -⟩, -⟩ := hinv
  exact ne_of_lt_cdist hhead htail hx (by omega) hk rfl

/-- The bytes from the tail to the end of storage are seen as free unless the view of the head is ahead of them. -/
theorem Variable.seenFree_of_tail_le (htail : v.tail ≤ x) (hx : x < v.cfg.capacity)
    (hhead : v.headW ≤ v.tail ∨ x < v.headW) : v.SeenFree x := by
  have hheadW := v.headW_lt
  refine ⟨hx, ?_⟩
  rw [cdist_eq (by omega) hx, cdist_eq hheadW (by omega), if_pos htail]
  split <;> omega

/-- Past a wrap, the bytes below the view of the head are seen as free. -/
theorem Variable.seenFree_of_lt_headW (hhead : v.headW ≤ v.tail) (htail : v.tail < v.cfg.capacity)
    (hx : x < v.headW) : v.SeenFree x := by
  have hheadW := v.headW_lt
  refine ⟨by omega, ?_⟩
  rw [cdist_eq htail (by omega), cdist_eq hheadW htail, if_neg (by omega), if_pos hhead]
  omega

/-- The message a VP.ALLOC places lies in what the producer sees as free (42_variable_packet_fifo.md R177). -/
theorem Variable.seenFree_of_placed {len : Nat} {p : Placement} (hp : vPlace v len = some p)
    (htail : v.tail < v.cfg.capacity) (hlow : p.off ≤ x) (hhigh : x < p.off + p.total) : v.SeenFree x := by
  have hheadW := v.headW_lt
  obtain ⟨-, ⟨hle, hoff, -, hfit⟩ | ⟨hle, hoff, -, hfit⟩ | ⟨hlt, hoff, -, hfit⟩⟩ := vPlaceAt_some hp
  · exact seenFree_of_tail_le (by omega) (by omega) (.inl hle)
  · exact seenFree_of_lt_headW hle htail (by omega)
  · exact seenFree_of_tail_le (by omega) (by omega) (.inr (by omega))

/-- The reserved message lies in what the producer sees as free (43_gray_pointer_sync.md R248). -/
theorem Variable.Inv.seenFree_of_reserved (hinv : v.Inv) (hresv : v.resv = true) (hlow : v.resvOff ≤ x)
    (hhigh : x < v.resvOff + v.resvTotal) : v.SeenFree x := by
  obtain ⟨-, -, hfit⟩ := hdrDecode_message (hinv.resv_header hresv)
  obtain ⟨⟨htail, -⟩, -, -, -, hresvOk, -⟩ := hinv
  obtain ⟨-, hplace, hextent⟩ := hresvOk hresv
  have hblock := block_pos v.cfg
  have hcap := block_lt_capacity v.cfg
  refine ⟨by omega, ?_⟩
  rw [cdist_eq htail (by omega)]
  unfold resvExtent at hextent
  split at hextent <;> split <;> omega

end

/-! ### Commands write only what the producer sees as free -/

section
variable {v : Variable} {s t : State} {w x : Nat} {i : Instr}

theorem writeHeader_storeRead_outside {c : VarConfig} {m n : List Host.Cell} {o total info : Nat}
    (h : writeHeader c m o total info = .ok n) (hx : ¬(o ≤ x ∧ x < o + 8)) : storeRead n x = storeRead m x := by
  obtain ⟨-, rfl⟩ := writeHeader_ok.1 h
  rw [storeRead_leWrite, storeRead_leWrite, if_neg (by omega), if_neg (by omega)]

theorem allocMem_storeRead_outside {p : Placement} {len : Nat} {n : List Host.Cell}
    (h : allocMem v p len = .ok n) (hheader : ¬(p.off ≤ x ∧ x < p.off + 8))
    (hsentinel : p.wrap = true → ¬(v.tail ≤ x ∧ x < v.tail + 8)) : storeRead n x = storeRead v.mem x := by
  obtain ⟨m, hm, hn⟩ := allocMem_ok.1 h
  rw [writeHeader_storeRead_outside hn hheader]
  split at hm
  · next hwrap => exact writeHeader_storeRead_outside hm (hsentinel hwrap)
  · cases hm; rfl

theorem Variable.Inv.vpAllocPart_storeRead (hinv : v.Inv) (hx : ¬v.SeenFree x) {u : Variable} {len : Nat}
    {r : VpResp} (h : vpAllocPart v len = .ok (u, r)) : storeRead u.mem x = storeRead v.mem x := by
  have htail := hinv.tail_header_fits
  obtain ⟨-, rfl, -⟩ | ⟨p, m, hp, hm, rfl, -⟩ := vpAllocPart_ok.1 h
  · rfl
  · obtain ⟨htotal, hcases⟩ := vPlaceAt_some hp
    refine allocMem_storeRead_outside hm ?_ ?_
    · rintro ⟨hlow, hhigh⟩
      exact hx (seenFree_of_placed hp (by omega) hlow (by omega))
    · rintro hwrap ⟨hlow, hhigh⟩
      have hhead : v.headW ≤ v.tail := by
        obtain ⟨hle, -⟩ | ⟨hle, -⟩ | ⟨-, -, hno, -⟩ := hcases
        · exact hle
        · exact hle
        · rw [hno] at hwrap; cases hwrap
      exact hx (seenFree_of_tail_le hlow (by omega) (.inl hhead))

theorem Variable.Inv.vpWritePart_storeRead (hinv : v.Inv) (hx : ¬v.SeenFree x) {u : Variable} {off : Nat}
    {b : Byte} {r : VpResp} (h : vpWritePart v off b = .ok (u, r)) : storeRead u.mem x = storeRead v.mem x := by
  obtain ⟨hresv, hoff, -, rfl, -⟩ := vpWritePart_ok.1 h
  obtain ⟨haddr, -⟩ := payloadAddr_lt_of_message (hinv.resv_header hresv) hoff
  refine storeRead_storeWrite_ne _ _ ?_
  rintro rfl
  exact hx (hinv.seenFree_of_reserved hresv (by unfold payloadAddr; omega) haddr)

theorem varWEdge_storeRead {p : Except Stop (Variable × VpResp)}
    (hpart : ∀ u r, p = .ok (u, r) → storeRead u.mem x = storeRead s.var.mem x)
    (h : varWEdge s w p = .next t) : storeRead t.var.mem x = storeRead s.var.mem x := by
  obtain ⟨-, rfl⟩ | ⟨-, code, -, rfl⟩ | ⟨-, u, r, hok, rfl⟩ := varWEdge_next.1 h
  · rfl
  · rfl
  · exact hpart u r hok

/-- A byte the producer does not see as free reads as before, whatever the command. -/
theorem exec_storeRead_var (hinv : s.var.Inv) (hx : ¬s.var.SeenFree x) (h : exec i s = .next t) :
    storeRead t.var.mem x = storeRead s.var.mem x := by
  cases i with
  | vpAlloc len b => exact varWEdge_storeRead (fun _ _ => hinv.vpAllocPart_storeRead hx) h
  | vpWrite off b => exact varWEdge_storeRead (fun _ _ => hinv.vpWritePart_storeRead hx) h
  | _ => rw [exec_keeps_var_mem (by simp) (by simp) h]

/-- A slot other than `f_tail` reads as before, whatever the command (41_fixed_slot_fifo.md R135). -/
theorem exec_storeRead_fixed (hx : x ≠ s.fixed.tail) (h : exec i s = .next t) :
    storeRead t.fixed.mem x = storeRead s.fixed.mem x := by
  cases i with
  | fpWrite data =>
    obtain ⟨-, rfl⟩ | ⟨-, code, -, rfl⟩ | ⟨-, f, r, hok, rfl⟩ := fixedWEdge_next.1 h
    · rfl
    · rfl
    · obtain ⟨-, -, rfl, -⟩ := fpWritePart_ok.1 hok
      exact storeRead_storeWrite_ne _ _ hx
  | _ => rw [exec_keeps_fixed_mem (by simp) h]

/-- The slot at the tail is no pushed and unpopped slot. -/
theorem Fixed.Inv.unread_ne_tail {f : Fixed} (hinv : f.Inv) {k : Nat} (hk : k < cdist f.head f.tail f.cfg.slots) :
    (f.head + k) % f.cfg.slots ≠ f.tail := by
  obtain ⟨⟨htail, -, -, hhead, -⟩, -⟩ := hinv
  refine ne_of_lt_cdist hhead htail htail ?_ hk
  rw [cdist_self htail, Nat.zero_add]
  exact cdist_lt (slots_pos _)

end

end Sys2Proof.Machine

/-! ### The statements -/

namespace Sys2Proof.Proofs

open Sys2Proof.Machine

/-- Settles O47: pointers and headers are aligned and a message fits in storage, so no command part names an address
outside it, and an edge whose command part completes answers. -/
theorem everyPresentedCommandCompletes : Obligations.EveryPresentedCommandCompletes := by
  intro s hinv hw
  cases hp : s.pending with
  | nil => exact ⟨s, step_of_nil hp, fun _ => rfl, nofun⟩
  | cons e rest =>
    cases e with
    | reset kind =>
      obtain ⟨t, ht⟩ := resetStep_completes { s with pending := rest } kind
      exact ⟨t, (step_reset hp).trans ht, nofun, nofun⟩
    | edge port w =>
      obtain ⟨i, hi⟩ := decode_of_lt (hw port w rest hp)
      obtain ⟨t, hexec, hfixed, hvar⟩ := exec_completes (s := { s with pending := rest }) hinv i
      rw [decode_port hi] at hfixed hvar
      refine ⟨t, (step_edge hp hi).trans hexec, nofun, fun port' w' rest' heq => ?_⟩
      cases heq
      exact ⟨hfixed, hvar⟩

/-- Settles O52: every write goes to what the producer sees as free, and the chain invariant puts the unread region
outside that. -/
theorem unreadStorageIsNeverWritten : Obligations.UnreadStorageIsNeverWritten :=
  fun _ _ _ ⟨hfixed, hvar⟩ h => ⟨fun _ hk => exec_storeRead_fixed (hfixed.unread_ne_tail hk) h,
    fun _ hk => exec_storeRead_var hvar (hvar.not_seenFree_of_unread hk) h⟩

end Sys2Proof.Proofs

/-!
PROOFS of the encoding's statements (30_encoding.md): decode and encode are inverse on well-formed commands, and every
word of a port is the command its `op` field selects. The rules of the fields and of each port's command map come
first; the statements are settled at the end.
-/

namespace Sys2Proof.Machine

/-! ### The fields of a word made of given fields (30_encoding.md R101 to R104, R110) -/

theorem opField_eq_mod (w : Nat) : opField w = w % 4 := by simp [opField, bitField]

theorem opField_cases (w : Nat) : opField w = 0 ∨ opField w = 1 ∨ opField w = 2 ∨ opField w = 3 := by
  rw [opField_eq_mod]
  omega

/-- The op of FPW and VCW, whatever field stands above it. -/
theorem opField_op_field {op : Nat} (ho : op < 4) (x : Nat) : opField (op + 2 ^ 2 * x) = op := by
  rw [opField_eq_mod]
  omega

@[simp] theorem opField_fpWord {op : Nat} (ho : op < 4) (data : Nat) : opField (fpWord op data) = op :=
  opField_op_field ho data

@[simp] theorem opField_fcWord {op : Nat} (ho : op < 4) : opField (fcWord op) = op := by
  rw [opField_eq_mod, fcWord, Nat.mod_eq_of_lt ho]

@[simp] theorem opField_vcWord {op : Nat} (ho : op < 4) (a : Nat) : opField (vcWord op a) = op :=
  opField_op_field ho a

/-- `b` stands above `op` and `a`, so VPW is a word of two fields whose upper field is `a` and `b` together. -/
theorem vpWord_eq_op_field (c : VarConfig) (op a : Nat) (b : Byte) :
    vpWord c op a b = op + 2 ^ 2 * (a + 2 ^ c.l * b.toNat) := by
  rw [vpWord, pow_add]
  ring

@[simp] theorem opField_vpWord {op : Nat} (ho : op < 4) (c : VarConfig) (a : Nat) (b : Byte) :
    opField (vpWord c op a b) = op := by
  rw [vpWord_eq_op_field, opField_op_field ho]

/-- The `n` bits above the op are the field above it modulo `2 ^ n`. -/
theorem bitField_op_field {op : Nat} (ho : op < 4) (n x : Nat) :
    bitField (op + 2 ^ 2 * x) (n + 1) 2 = x % 2 ^ n := by
  have hdiv : (op + 2 ^ 2 * x) / 2 ^ 2 = x := by omega
  rw [bitField, hdiv, show n + 1 + 1 - 2 = n by omega]

@[simp] theorem fpDataField_fpWord {c : FixedConfig} {op data : Nat} (ho : op < 4) (hdata : data < 2 ^ c.fW) :
    fpDataField c (fpWord op data) = data :=
  (bitField_op_field ho c.fW data).trans (Nat.mod_eq_of_lt hdata)

@[simp] theorem vcAField_vcWord {c : VarConfig} {op a : Nat} (ho : op < 4) (ha : a < 2 ^ c.l) :
    vcAField c (vcWord op a) = a :=
  (bitField_op_field ho c.l a).trans (Nat.mod_eq_of_lt ha)

@[simp] theorem vpAField_vpWord {c : VarConfig} {op a : Nat} (ho : op < 4) (ha : a < 2 ^ c.l) (b : Byte) :
    vpAField c (vpWord c op a b) = a := by
  rw [vpWord_eq_op_field, vpAField, bitField_op_field ho, Nat.add_mul_mod_self_left, Nat.mod_eq_of_lt ha]

@[simp] theorem vpBField_vpWord {c : VarConfig} {op a : Nat} (ho : op < 4) (ha : a < 2 ^ c.l) (b : Byte) :
    vpBField c (vpWord c op a b) = b := by
  have hlow : op + 2 ^ 2 * a < 2 ^ (c.l + 2) := Laws.op_field_lt ho ha
  have hdiv : vpWord c op a b / 2 ^ (c.l + 2) = b.toNat := by
    rw [vpWord, Nat.add_mul_div_left _ _ (Nat.two_pow_pos _), Nat.div_eq_of_lt hlow, Nat.zero_add]
  rw [vpBField, bitField, hdiv, show c.l + 9 + 1 - (c.l + 2) = 8 by omega, Nat.mod_eq_of_lt b.isLt,
    BitVec.ofNat_toNat, BitVec.setWidth_eq]

/-! ### A word that fits its port is the word of its own fields (30_encoding.md R101 to R104, R114) -/

/-- An op under `n` bits: a word of `n + 2` bits has no others. -/
theorem op_field_of_lt {w n : Nat} (hw : w < 2 ^ (n + 2)) :
    opField w + 2 ^ 2 * bitField w (n + 1) 2 = w := by
  have hdiv : w / 2 ^ 2 < 2 ^ n := Nat.div_lt_of_lt_mul (by rwa [Nat.mul_comm, ← pow_add])
  rw [opField_eq_mod, bitField, show n + 1 + 1 - 2 = n by omega, Nat.mod_eq_of_lt hdiv]
  omega

theorem fpWord_of_lt {c : FixedConfig} {w : Nat} (hw : w < 2 ^ (c.fW + 2)) :
    fpWord (opField w) (fpDataField c w) = w :=
  op_field_of_lt hw

theorem fcWord_of_lt {w : Nat} (hw : w < 2 ^ 2) : fcWord (opField w) = w :=
  (opField_eq_mod w).trans (Nat.mod_eq_of_lt hw)

theorem vcWord_of_lt {c : VarConfig} {w : Nat} (hw : w < 2 ^ (c.l + 2)) :
    vcWord (opField w) (vcAField c w) = w :=
  op_field_of_lt hw

/-- The low `L + 2` bits are `op` and `a`, and `b` is all that stands above them. -/
theorem vpWord_of_lt {c : VarConfig} {w : Nat} (hw : w < 2 ^ (c.l + 10)) :
    vpWord c (opField w) (vpAField c w) (vpBField c w) = w := by
  have hb : (vpBField c w).toNat = w / 2 ^ (c.l + 2) := by
    have hdiv : w / 2 ^ (c.l + 2) < 2 ^ 8 := Nat.div_lt_of_lt_mul (by rwa [← pow_add])
    rw [vpBField, bitField, BitVec.toNat_ofNat, show c.l + 9 + 1 - (c.l + 2) = 8 by omega, Nat.mod_mod,
      Nat.mod_eq_of_lt hdiv]
  have ha : vpAField c w + 2 ^ c.l * (w / 2 ^ (c.l + 2)) = w / 2 ^ 2 := by
    rw [vpAField, bitField, show c.l + 1 + 1 - 2 = c.l by omega, Nat.add_comm c.l 2, pow_add,
      ← Nat.div_div_eq_div_mul, Nat.mod_add_div]
  rw [vpWord_eq_op_field, hb, ha, opField_eq_mod]
  omega

end Sys2Proof.Machine

namespace Sys2Proof

open Machine

section

variable {fc : FixedConfig} {vc : VarConfig} {i : Instr}

/-! ### A decoded command has the word's op, and its word is made of the word's fields (30_encoding.md R111) -/

theorem op_decodeFp (fc : FixedConfig) (w : Nat) : (decodeFp fc w).op = opField w := by
  obtain h | h | h | h := opField_cases w <;> simp [decodeFp, h, Instr.op]

theorem op_decodeFc (w : Nat) : (decodeFc w).op = opField w := by
  obtain h | h | h | h := opField_cases w <;> simp [decodeFc, h, Instr.op]

theorem op_decodeVp (vc : VarConfig) (w : Nat) : (decodeVp vc w).op = opField w := by
  obtain h | h | h | h := opField_cases w <;> simp [decodeVp, h, Instr.op]

theorem op_decodeVc (vc : VarConfig) (w : Nat) : (decodeVc vc w).op = opField w := by
  obtain h | h | h | h := opField_cases w <;> simp [decodeVc, h, Instr.op]

theorem decode_op {port : Port} {w : Nat} (h : decode fc vc port w = .ok i) : i.op = w % 4 := by
  rw [← opField_eq_mod]
  obtain ⟨-, ⟨-, rfl⟩ | ⟨-, rfl⟩ | ⟨-, rfl⟩ | ⟨-, rfl⟩⟩ := decode_ok h
  · exact op_decodeFp fc w
  · exact op_decodeFc w
  · exact op_decodeVp vc w
  · exact op_decodeVc vc w

theorem encode_decodeFp (fc : FixedConfig) (vc : VarConfig) (w : Nat) :
    encode vc (decodeFp fc w) = fpWord (opField w) (fpDataField fc w) := by
  obtain h | h | h | h := opField_cases w <;> simp [decodeFp, h, encode]

theorem encode_decodeFc (vc : VarConfig) (w : Nat) : encode vc (decodeFc w) = fcWord (opField w) := by
  obtain h | h | h | h := opField_cases w <;> simp [decodeFc, h, encode]

theorem encode_decodeVp (vc : VarConfig) (w : Nat) :
    encode vc (decodeVp vc w) = vpWord vc (opField w) (vpAField vc w) (vpBField vc w) := by
  obtain h | h | h | h := opField_cases w <;> simp [decodeVp, h, encode]

theorem encode_decodeVc (vc : VarConfig) (w : Nat) :
    encode vc (decodeVc vc w) = vcWord (opField w) (vcAField vc w) := by
  obtain h | h | h | h := opField_cases w <;> simp [decodeVc, h, encode]

theorem encode_of_decode {port : Port} {w : Nat} (h : decode fc vc port w = .ok i) : encode vc i = w := by
  obtain ⟨hw, ⟨rfl, rfl⟩ | ⟨rfl, rfl⟩ | ⟨rfl, rfl⟩ | ⟨rfl, rfl⟩⟩ := decode_ok h
  · exact (encode_decodeFp fc vc w).trans (fpWord_of_lt hw)
  · exact (encode_decodeFc vc w).trans (fcWord_of_lt hw)
  · exact (encode_decodeVp vc w).trans (vpWord_of_lt hw)
  · exact (encode_decodeVc vc w).trans (vcWord_of_lt hw)

/-! ### The command map of a port gives back the port's well-formed commands (30_encoding.md R111) -/

theorem decodeFp_encode (hp : i.port = .fp) (hi : i.WellFormed fc vc) : decodeFp fc (encode vc i) = i := by
  cases i with
  | fpNop data => simp [decodeFp, encode, fpDataField_fpWord _ hi]
  | fpAlloc data => simp [decodeFp, encode, fpDataField_fpWord _ hi]
  | fpWrite data => simp [decodeFp, encode, fpDataField_fpWord _ hi]
  | fpPush data => simp [decodeFp, encode, fpDataField_fpWord _ hi]
  | _ => cases hp

theorem decodeFc_encode (vc : VarConfig) (hp : i.port = .fc) : decodeFc (encode vc i) = i := by
  cases i with
  | fcNop => simp [decodeFc, encode]
  | fcFront => simp [decodeFc, encode]
  | fcPop => simp [decodeFc, encode]
  | fcReserved => simp [decodeFc, encode]
  | _ => cases hp

theorem decodeVp_encode (hp : i.port = .vp) (hi : i.WellFormed fc vc) : decodeVp vc (encode vc i) = i := by
  cases i with
  | vpNop a b => simp [decodeVp, encode, vpAField_vpWord _ hi, vpBField_vpWord _ hi]
  | vpAlloc len b => simp [decodeVp, encode, vpAField_vpWord _ hi, vpBField_vpWord _ hi]
  | vpWrite off b => simp [decodeVp, encode, vpAField_vpWord _ hi, vpBField_vpWord _ hi]
  | vpPush a b => simp [decodeVp, encode, vpAField_vpWord _ hi, vpBField_vpWord _ hi]
  | _ => cases hp

theorem decodeVc_encode (hp : i.port = .vc) (hi : i.WellFormed fc vc) : decodeVc vc (encode vc i) = i := by
  cases i with
  | vcNop a => simp [decodeVc, encode, vcAField_vcWord _ hi]
  | vcFront a => simp [decodeVc, encode, vcAField_vcWord _ hi]
  | vcRead off => simp [decodeVc, encode, vcAField_vcWord _ hi]
  | vcPop a => simp [decodeVc, encode, vcAField_vcWord _ hi]
  | _ => cases hp

/-- The word of a well-formed command fits its port's word, whichever command it is. -/
theorem encode_lt (hi : i.WellFormed fc vc) : encode vc i < 2 ^ portWidth fc vc i.port := by
  cases i with
  | fpNop data => exact Laws.WordFits.fpNop data fc vc hi
  | fpAlloc data => exact Laws.WordFits.fpAlloc data fc vc hi
  | fpWrite data => exact Laws.WordFits.fpWrite data fc vc hi
  | fpPush data => exact Laws.WordFits.fpPush data fc vc hi
  | fcNop => exact Laws.WordFits.fcNop fc vc hi
  | fcFront => exact Laws.WordFits.fcFront fc vc hi
  | fcPop => exact Laws.WordFits.fcPop fc vc hi
  | fcReserved => exact Laws.WordFits.fcReserved fc vc hi
  | vpNop a b => exact Laws.WordFits.vpNop a b fc vc hi
  | vpAlloc len b => exact Laws.WordFits.vpAlloc len b fc vc hi
  | vpWrite off b => exact Laws.WordFits.vpWrite off b fc vc hi
  | vpPush a b => exact Laws.WordFits.vpPush a b fc vc hi
  | vcNop a => exact Laws.WordFits.vcNop a fc vc hi
  | vcFront a => exact Laws.WordFits.vcFront a fc vc hi
  | vcRead off => exact Laws.WordFits.vcRead off fc vc hi
  | vcPop a => exact Laws.WordFits.vcPop a fc vc hi

theorem decode_encode (hi : i.WellFormed fc vc) : decode fc vc i.port (encode vc i) = .ok i := by
  obtain ⟨j, hj⟩ := decode_of_lt (encode_lt hi)
  rw [hj]
  obtain ⟨-, ⟨hp, rfl⟩ | ⟨hp, rfl⟩ | ⟨hp, rfl⟩ | ⟨hp, rfl⟩⟩ := decode_ok hj
  · rw [decodeFp_encode hp hi]
  · rw [decodeFc_encode vc hp]
  · rw [decodeVp_encode hp hi]
  · rw [decodeVc_encode hp hi]

theorem decode_wordTooWide {port : Port} {w : Nat} (hw : 2 ^ portWidth fc vc port ≤ w) :
    decode fc vc port w = .error (.wordTooWide port) :=
  if_pos hw

end

end Sys2Proof

/-! ### The statements -/

namespace Sys2Proof.Proofs

open Sys2Proof.Machine

/-- Settles O1: the word fits its port, and the port's command map reads back every field. -/
theorem decodeOfEncodeIsTheCommand : Obligations.DecodeOfEncodeIsTheCommand :=
  fun _ _ _ hi => decode_encode hi

/-- Settles O2: a word that fits its port is the word of its own fields, and the decoded command carries them all. -/
theorem encodeOfDecodeIsTheWord : Obligations.EncodeOfDecodeIsTheWord :=
  fun _ _ _ _ _ h => ⟨encode_of_decode h, decode_wellFormed h, decode_port h⟩

/-- Settles O3: the decoder rejects a number by its width alone, and each command map selects by the op field. -/
theorem everyPortWordDecodesByItsOp : Obligations.EveryPortWordDecodesByItsOp := by
  refine fun fc vc port w => ⟨fun hw => ?_, decode_wordTooWide⟩
  obtain ⟨i, hi⟩ := decode_of_lt hw
  exact ⟨i, hi, decode_op hi⟩

/-- Settles O4: each of the eight closed words is decoded by evaluation. -/
theorem exampleWordsDecode : Obligations.ExampleWordsDecode := by
  unfold Obligations.ExampleWordsDecode
  decide

end Sys2Proof.Proofs

/-!
PROOFS of the fixed-slot FIFO's statements (41_fixed_slot_fifo.md): what each of its commands does, that it is a queue,
and that it holds at most `N - 1` elements. The rules of a taken and of a faulting edge, of the queue and of a run
without a pop come first; the statements are settled at the end.
-/

namespace Sys2Proof.Machine

section
variable {s t : State} {w : Nat} {i : Instr}

/-! ### An edge that is taken (43_gray_pointer_sync.md R250 to R253) -/

theorem fixedWEdge_taken {part : Fixed → Except Stop (Fixed × FpResp)} (hpart : IsFpPart part)
    (hfault : s.fixed.fault = none) {f : Fixed} {r : FpResp} (hok : part s.fixed = .ok (f, r)) :
    ∃ t, fixedWEdge s w (part s.fixed) = .next t ∧ s.FixedOnly t (.fp r) ∧ s.fixed.WriteEdge t.fixed ∧
      t.fixed.tail = f.tail ∧ t.fixed.resv = f.resv ∧ SameStore f.mem t.fixed.mem := by
  refine ⟨_, fixedWEdge_next.2 (.inr (.inr ⟨hfault, f, r, hok, rfl⟩)), ⟨rfl, rfl, rfl⟩, ?_, rfl, rfl, fun _ => rfl⟩
  obtain ⟨tail, resv, mem, rfl⟩ := hpart _ _ _ hok
  exact ⟨rfl, rfl, s.fixed.sameReadSide_refl, rfl, rfl, rfl⟩

theorem fixedREdge_taken {part : Fixed → Except Stop (Fixed × FcResp)} (hpart : IsFcPart part)
    (hfault : s.fixed.fault = none) {f : Fixed} {r : FcResp} (hok : part s.fixed = .ok (f, r)) :
    ∃ t, fixedREdge s w (part s.fixed) = .next t ∧ s.FixedOnly t (.fc r) ∧ s.fixed.ReadEdge t.fixed ∧
      t.fixed.head = f.head ∧ SameStore s.fixed.mem t.fixed.mem := by
  obtain ⟨head, rfl⟩ := hpart _ _ _ hok
  exact ⟨_, fixedREdge_next.2 (.inr (.inr ⟨hfault, _, r, hok, rfl⟩)), ⟨rfl, rfl, rfl⟩,
    ⟨rfl, rfl, s.fixed.sameWriteSide_refl, rfl, rfl, rfl⟩, rfl, fun _ => rfl⟩

theorem varWEdge_taken {part : Variable → Except Stop (Variable × VpResp)} (hpart : IsVpPart part)
    (hfault : s.var.fault = none) {v : Variable} {r : VpResp} (hok : part s.var = .ok (v, r)) :
    ∃ t, varWEdge s w (part s.var) = .next t ∧ s.VarOnly t (.vp r) ∧ s.var.WriteEdge t.var ∧
      t.var.tail = v.tail ∧ v.SameReservation t.var ∧ SameStore v.mem t.var.mem := by
  refine ⟨_, varWEdge_next.2 (.inr (.inr ⟨hfault, v, r, hok, rfl⟩)), ⟨rfl, rfl, rfl⟩, ?_, rfl,
    ⟨rfl, rfl, rfl, rfl⟩, fun _ => rfl⟩
  obtain ⟨tail, resv, off, total, len, mem, rfl⟩ := hpart _ _ _ hok
  exact ⟨rfl, rfl, s.var.sameReadSide_refl, rfl, rfl, rfl⟩

theorem varREdge_taken {part : Variable → Except Stop (Variable × VcResp)} (hpart : IsVcPart part)
    (hfault : s.var.fault = none) {v : Variable} {r : VcResp} (hok : part s.var = .ok (v, r)) :
    ∃ t, varREdge s w (part s.var) = .next t ∧ s.VarOnly t (.vc r) ∧ s.var.ReadEdge t.var ∧
      t.var.head = v.head ∧ SameStore s.var.mem t.var.mem := by
  obtain ⟨head, rfl⟩ := hpart _ _ _ hok
  exact ⟨_, varREdge_next.2 (.inr (.inr ⟨hfault, _, r, hok, rfl⟩)), ⟨rfl, rfl, rfl⟩,
    ⟨rfl, rfl, s.var.sameWriteSide_refl, rfl, rfl, rfl⟩, rfl, fun _ => rfl⟩

/-! ### An edge that faults (60_exceptions.md R272, R274) -/

theorem fixedWEdge_faults {p : Except Stop (Fixed × FpResp)} (hfault : s.fixed.fault = none) {code : FaultCode}
    (hp : p = .error (.record code)) :
    fixedWEdge s w p = .next (s.putFixed (s.fixed.takeFault code .write w) .none) :=
  fixedWEdge_next.2 (.inr (.inl ⟨hfault, code, hp, rfl⟩))

theorem fixedREdge_faults {p : Except Stop (Fixed × FcResp)} (hfault : s.fixed.fault = none) {code : FaultCode}
    (hp : p = .error (.record code)) :
    fixedREdge s w p = .next (s.putFixed (s.fixed.takeFault code .read w) .none) :=
  fixedREdge_next.2 (.inr (.inl ⟨hfault, code, hp, rfl⟩))

theorem fpWritePart_of_no_resv {f : Fixed} (hresv : f.resv = false) (data : Nat) :
    fpWritePart f data = .error (.record .fWriteNoResv) :=
  if_pos hresv

theorem fpPushPart_of_no_resv {f : Fixed} (hresv : f.resv = false) :
    fpPushPart f = .error (.record .fPushNoResv) :=
  if_pos hresv

theorem fcFrontPart_of_unwritten {f : Fixed} (hshown : f.head ≠ f.tailR) (hhead : f.head < f.cfg.slots)
    (hmem : storeRead f.mem f.head = none) : fcFrontPart f = .error (.record .fReadUnwritten) := by
  rw [fcFrontPart, if_neg hshown, readCell, if_pos hhead, hmem]

theorem fcPopPart_of_empty {f : Fixed} (hempty : f.head = f.tailR) :
    fcPopPart f = .error (.record .fPopEmpty) :=
  if_pos hempty

/-- An edge of the FP port that leaves no fault recorded was taken. -/
theorem fixedWEdge_unfaulted {p : Except Stop (Fixed × FpResp)} (h : fixedWEdge s w p = .next t)
    (hfault : t.fixed.fault = none) :
    s.fixed.fault = none ∧ ∃ f r, p = .ok (f, r) ∧ t = s.putFixed (f.wTick s.fixed) (.fp r) := by
  obtain ⟨hf, rfl⟩ | ⟨-, code, -, rfl⟩ | ⟨hf, htaken⟩ := fixedWEdge_next.1 h
  · exact absurd hfault hf
  · cases hfault
  · exact ⟨hf, htaken⟩

/-- An edge of the FC port that leaves no fault recorded was taken. -/
theorem fixedREdge_unfaulted {p : Except Stop (Fixed × FcResp)} (h : fixedREdge s w p = .next t)
    (hfault : t.fixed.fault = none) :
    s.fixed.fault = none ∧ ∃ f r, p = .ok (f, r) ∧ t = s.putFixed (f.rTick s.fixed) (.fc r) := by
  obtain ⟨hf, rfl⟩ | ⟨-, code, -, rfl⟩ | ⟨hf, htaken⟩ := fixedREdge_next.1 h
  · exact absurd hfault hf
  · cases hfault
  · exact ⟨hf, htaken⟩

theorem exec_fixed_unfaulted (hk : i.port.kind = .fixedSlot) (h : exec i s = .next t)
    (hfault : t.fixed.fault = none) : s.fixed.fault = none := by
  obtain hp | hp := Port.fixedSlot_cases hk
  · obtain ⟨part, -, hexec⟩ := exec_fp hp
    exact (fixedWEdge_unfaulted (hexec s s.var.cfg ▸ h) hfault).1
  · obtain ⟨part, -, hexec⟩ := exec_fc hp
    exact (fixedREdge_unfaulted (hexec s s.var.cfg ▸ h) hfault).1

/-- An edge that leaves a fault recorded changes nothing of the fixed-slot FIFO but the record. -/
theorem exec_fixed_of_faulted (h : exec i s = .next t) (hfault : t.fixed.fault ≠ none) :
    ∃ record, t.fixed = { s.fixed with fault := record } := by
  cases hp : i.port with
  | fp =>
    obtain ⟨part, hpart, hexec⟩ := exec_fp hp
    obtain ⟨-, rfl⟩ | ⟨-, code, -, rfl⟩ | ⟨hf, f, r, hok, rfl⟩ := fixedWEdge_next.1 (hexec s s.var.cfg ▸ h)
    · exact ⟨_, rfl⟩
    · exact ⟨_, rfl⟩
    · obtain ⟨tail, resv, mem, rfl⟩ := hpart _ _ _ hok
      exact absurd hf hfault
  | fc =>
    obtain ⟨part, hpart, hexec⟩ := exec_fc hp
    obtain ⟨-, rfl⟩ | ⟨-, code, -, rfl⟩ | ⟨hf, f, r, hok, rfl⟩ := fixedREdge_next.1 (hexec s s.var.cfg ▸ h)
    · exact ⟨_, rfl⟩
    · exact ⟨_, rfl⟩
    · obtain ⟨head, rfl⟩ := hpart _ _ _ hok
      exact absurd hf hfault
  | vp => exact ⟨_, exec_var_keeps_fixed (by rw [hp]; rfl) h⟩
  | vc => exact ⟨_, exec_var_keeps_fixed (by rw [hp]; rfl) h⟩

/-! ### Only FP.PUSH moves the tail and only FC.POP the head -/

theorem fixedWEdge_keeps_tail {p : Except Stop (Fixed × FpResp)}
    (hpart : ∀ f r, p = .ok (f, r) → f.tail = s.fixed.tail) (h : fixedWEdge s w p = .next t) :
    t.fixed.tail = s.fixed.tail := by
  obtain ⟨-, rfl⟩ | ⟨-, code, -, rfl⟩ | ⟨-, f, r, hok, rfl⟩ := fixedWEdge_next.1 h
  · rfl
  · rfl
  · exact hpart f r hok

theorem fixedREdge_keeps_head {p : Except Stop (Fixed × FcResp)}
    (hpart : ∀ f r, p = .ok (f, r) → f.head = s.fixed.head) (h : fixedREdge s w p = .next t) :
    t.fixed.head = s.fixed.head := by
  obtain ⟨-, rfl⟩ | ⟨-, code, -, rfl⟩ | ⟨-, f, r, hok, rfl⟩ := fixedREdge_next.1 h
  · rfl
  · rfl
  · exact hpart f r hok

theorem exec_keeps_fixed_tail (hi : ∀ data, i ≠ .fpPush data) (h : exec i s = .next t) :
    t.fixed.tail = s.fixed.tail := by
  cases i with
  | fpNop data =>
    refine fixedWEdge_keeps_tail (w := fpWord 0 data) (p := fpNopPart s.fixed) (fun f r hok => ?_) h
    rw [(fpNopPart_ok.1 hok).1]
  | fpAlloc data =>
    refine fixedWEdge_keeps_tail (fun f r hok => ?_) h
    obtain ⟨-, rfl, -⟩ | ⟨-, rfl, -⟩ := fpAllocPart_ok.1 hok <;> rfl
  | fpWrite data =>
    refine fixedWEdge_keeps_tail (fun f r hok => ?_) h
    obtain ⟨-, -, rfl, -⟩ := fpWritePart_ok.1 hok
    rfl
  | fpPush data => exact absurd rfl (hi data)
  | fcNop | fcFront | fcPop | fcReserved => exact (exec_read_sameWriteSide rfl h).1.1
  | _ => rw [exec_var_keeps_fixed rfl h]

theorem exec_keeps_fixed_head (hi : i ≠ .fcPop) (h : exec i s = .next t) : t.fixed.head = s.fixed.head := by
  cases i with
  | fcNop =>
    refine fixedREdge_keeps_head (w := fcWord 0) (p := fcNopPart s.fixed) (fun f r hok => ?_) h
    rw [(fcNopPart_ok.1 hok).1]
  | fcFront =>
    refine fixedREdge_keeps_head (fun f r hok => ?_) h
    rw [(fcFrontPart_ok.1 hok).1]
  | fcPop => exact absurd rfl hi
  | fcReserved => exact fixedREdge_keeps_head (w := fcWord 3) (p := fcReservedPart s.fixed) (fun _ _ => nofun) h
  | fpNop | fpAlloc | fpWrite | fpPush => exact (exec_write_sameReadSide rfl h).1.1
  | _ => rw [exec_var_keeps_fixed rfl h]

/-! ### What FC.FRONT shows (41_fixed_slot_fifo.md R138) -/

theorem exec_port_of_resp_fc {r : FcResp} (h : exec i s = .next t) (hr : t.resp = .fc r) : i.port = .fc := by
  cases hp : i.port with
  | fp =>
    obtain ⟨part, -, hexec⟩ := exec_fp hp
    obtain ⟨-, rfl⟩ | ⟨-, code, -, rfl⟩ | ⟨-, f, q, -, rfl⟩ := fixedWEdge_next.1 (hexec s s.var.cfg ▸ h) <;> cases hr
  | fc => rfl
  | vp =>
    obtain ⟨part, -, hexec⟩ := exec_vp hp
    obtain ⟨-, rfl⟩ | ⟨-, code, -, rfl⟩ | ⟨-, v, q, -, rfl⟩ := varWEdge_next.1 (hexec s ▸ h) <;> cases hr
  | vc =>
    obtain ⟨part, -, hexec⟩ := exec_vc hp
    obtain ⟨-, rfl⟩ | ⟨-, code, -, rfl⟩ | ⟨-, v, q, -, rfl⟩ := varREdge_next.1 (hexec s ▸ h) <;> cases hr

theorem fixedREdge_resp_fc {p : Except Stop (Fixed × FcResp)} {r : FcResp} (h : fixedREdge s w p = .next t)
    (hr : t.resp = .fc r) : ∃ f, p = .ok (f, r) := by
  obtain ⟨-, rfl⟩ | ⟨-, code, -, rfl⟩ | ⟨-, f, q, hok, rfl⟩ := fixedREdge_next.1 h
  · cases hr
  · cases hr
  · cases hr
    exact ⟨f, hok⟩

/-- A command that shows a slot shows `f_head` and its content, and only where the consumer sees an element. -/
theorem exec_shown {slot data : Nat} (h : exec i s = .next t) (hr : t.resp = .fc (fcShown slot data)) :
    slot = s.fixed.head ∧ s.fixed.head ≠ s.fixed.tailR ∧ storeRead s.fixed.mem s.fixed.head = some data := by
  have hp := exec_port_of_resp_fc h hr
  cases i with
  | fcNop =>
    obtain ⟨f, hok⟩ := fixedREdge_resp_fc (w := fcWord 0) (p := fcNopPart s.fixed) h hr
    cases (fcNopPart_ok.1 hok).2
  | fcFront =>
    obtain ⟨f, hok⟩ := fixedREdge_resp_fc h hr
    obtain ⟨-, ⟨-, hnot⟩ | ⟨hshown, -, d, hmem, heq⟩⟩ := fcFrontPart_ok.1 hok
    · cases hnot
    · cases heq
      exact ⟨rfl, hshown, hmem⟩
  | fcPop =>
    obtain ⟨f, hok⟩ := fixedREdge_resp_fc h hr
    cases (fcPopPart_ok.1 hok).2.2
  | fcReserved =>
    obtain ⟨f, hok⟩ := fixedREdge_resp_fc (w := fcWord 3) (p := fcReservedPart s.fixed) h hr
    cases hok
  | _ => cases hp

end

/-! ### One position along the ring (00_scope.md R14) -/

section
variable {a b m : Nat}

theorem cdist_succ_right (h : cdist a b m + 1 < m) : cdist a ((b + 1) % m) m = cdist a b m + 1 := by
  have hsucc : cdist a ((b + 1) % m) m = (cdist a b m + 1) % m := by
    simp only [cdist, Nat.mod_add_mod]
    congr 1
    omega
  rw [hsucc, Nat.mod_eq_of_lt h]

theorem succ_mod_of_lt (h : a < m) : (a + 1) % m = if a + 1 = m then 0 else a + 1 := by
  split
  · next heq => rw [heq, Nat.mod_self]
  · exact Nat.mod_eq_of_lt (by omega)

theorem cdist_succ_left (ha : a < m) (hb : b < m) (hne : a ≠ b) :
    cdist a b m = cdist ((a + 1) % m) b m + 1 := by
  rw [cdist_eq (Nat.mod_lt _ (by omega)) hb, cdist_eq ha hb, succ_mod_of_lt ha]
  split_ifs <;> omega

theorem add_cdist_mod (ha : a < m) (hb : b < m) : (a + cdist a b m) % m = b := by
  rw [cdist_eq ha hb]
  split
  · rw [Nat.add_sub_cancel' ‹_›, Nat.mod_eq_of_lt hb]
  · rw [show a + (b + m - a) = b + m by omega, Nat.add_mod_right, Nat.mod_eq_of_lt hb]

end

/-! ### The views lie in order around the ring (43_gray_pointer_sync.md R244, R247) -/

section
variable {f g : Fixed}

/-- The chain passes `f_head_w`, `f_head`, `f_tail_r` and `f_tail` in this order, and goes around at most once. -/
theorem Fixed.Inv.views_in_order (hinv : f.Inv) :
    cdist f.headW f.head f.cfg.slots + cdist f.head f.tailR f.cfg.slots + cdist f.tailR f.tail f.cfg.slots ≤
      cdist f.headW f.tail f.cfg.slots := by
  obtain ⟨⟨-, -, -, -, -, -, hrlength, -, hwlength, -⟩, -, ⟨hchain, -⟩, -⟩ := hinv
  obtain ⟨-, -, -, hstages⟩ := f.cfg.legal
  obtain ⟨l, hl⟩ := exists_reverse_eq_lastStage_cons hrlength (by omega)
  obtain ⟨k, hk⟩ := exists_reverse_eq_lastStage_cons hwlength (by omega)
  have hsplit : f.chain = (f.headW :: (l.map (gray2bin f.cfg.fAw) ++ [f.rpub])) ++
      f.head :: f.tailR :: (k.map (gray2bin f.cfg.fAw) ++ [f.wpub] ++ [f.tail]) := by
    simp [Fixed.chain, hl, hk, Fixed.headW, Fixed.tailR]
  have hpos := slots_pos f.cfg
  rw [← hchain, hsplit, chainLength_append_cons, chainLength, ← Nat.add_assoc]
  exact Nat.add_le_add (Nat.add_le_add_right (cdist_le_chainLength hpos _ _ _) _) (cdist_le_chainLength hpos _ _ _)

theorem Fixed.Inv.cdist_head_tail_le (hinv : f.Inv) :
    cdist f.head f.tail f.cfg.slots ≤ cdist f.headW f.tail f.cfg.slots := by
  have horder := hinv.views_in_order
  have htriangle := cdist_triangle (slots_pos f.cfg) f.head f.tailR f.tail
  omega

/-- Where the consumer sees an element there is one. -/
theorem Fixed.Inv.head_ne_tail (hinv : f.Inv) (hshown : f.head ≠ f.tailR) : f.head ≠ f.tail := by
  intro heq
  have horder := hinv.views_in_order
  obtain ⟨⟨-, -, -, hhead, -⟩, -, ⟨-, hlength⟩, -⟩ := hinv
  have htailR := f.tailR_lt
  rw [← heq, cdist_eq hhead htailR, cdist_eq htailR hhead] at horder
  rw [← heq] at hlength
  split at horder <;> split at horder <;> omega

/-! ### The queue (41_fixed_slot_fifo.md R143) -/

theorem Fixed.length_queue (f : Fixed) : f.queue.length = cdist f.head f.tail f.cfg.slots := by
  simp [queue]

/-- The queue depends on the two pointers and the slots between them. -/
theorem Fixed.queue_congr (hcfg : g.cfg = f.cfg) (hhead : g.head = f.head) (htail : g.tail = f.tail)
    (hmem : ∀ k < cdist f.head f.tail f.cfg.slots,
      storeRead g.mem ((f.head + k) % f.cfg.slots) = storeRead f.mem ((f.head + k) % f.cfg.slots)) :
    g.queue = f.queue := by
  rw [queue, queue, hcfg, hhead, htail]
  exact List.map_congr_left fun k hk => hmem k (List.mem_range.1 hk)

/-- Advancing the tail appends the content of the slot it leaves behind. -/
theorem Fixed.queue_of_tail_succ (hcfg : g.cfg = f.cfg) (hhead : g.head = f.head)
    (htail : g.tail = (f.tail + 1) % f.cfg.slots) (hmem : g.mem = f.mem) (hheadLt : f.head < f.cfg.slots)
    (htailLt : f.tail < f.cfg.slots) (hroom : cdist f.head f.tail f.cfg.slots + 1 < f.cfg.slots) :
    g.queue = f.queue ++ [storeRead f.mem f.tail] := by
  rw [queue, queue, hcfg, hhead, htail, hmem, cdist_succ_right hroom, List.range_succ, List.map_append,
    List.map_singleton, add_cdist_mod hheadLt htailLt]

/-- Advancing the head removes the element of the slot it leaves behind. -/
theorem Fixed.queue_of_head_succ (hcfg : g.cfg = f.cfg) (hhead : g.head = (f.head + 1) % f.cfg.slots)
    (htail : g.tail = f.tail) (hmem : g.mem = f.mem) (hheadLt : f.head < f.cfg.slots)
    (htailLt : f.tail < f.cfg.slots) (hne : f.head ≠ f.tail) :
    f.queue = storeRead f.mem f.head :: g.queue := by
  rw [queue, queue, hcfg, hhead, htail, hmem, cdist_succ_left hheadLt htailLt hne, List.range_succ_eq_map,
    List.map_cons, List.map_map, Nat.add_zero, Nat.mod_eq_of_lt hheadLt]
  congr 1
  refine List.map_congr_left fun k _ => ?_
  rw [Function.comp_apply, Nat.mod_add_mod, Nat.add_right_comm, Nat.add_assoc]

theorem Fixed.Inv.head?_queue (hinv : f.Inv) (hshown : f.head ≠ f.tailR) :
    f.queue.head? = some (storeRead f.mem f.head) := by
  have hne := hinv.head_ne_tail hshown
  obtain ⟨⟨htail, -, -, hhead, -⟩, -⟩ := hinv
  rw [queue_of_head_succ (f := f) (g := { f with head := (f.head + 1) % f.cfg.slots }) rfl rfl rfl rfl hhead htail hne,
    List.head?_cons]

theorem Fixed.Inv.length_queue_le (hinv : f.Inv) : f.queue.length ≤ f.cfg.slots - 1 := by
  have hle := hinv.cdist_head_tail_le
  obtain ⟨-, -, ⟨-, hlength⟩, -⟩ := hinv
  exact f.length_queue.trans_le (hle.trans hlength)

/-- A held reservation's slot is none the producer sees as occupied, so FP.ALLOC finds the FIFO not full
(41_fixed_slot_fifo.md R142). -/
theorem Fixed.Inv.not_full_of_resv (hinv : f.Inv) (hresv : f.resv = true) :
    (f.tail + 1) % f.cfg.slots ≠ f.headW := by
  obtain ⟨⟨htail, -⟩, -, -, hroom⟩ := hinv
  intro hfull
  have hroom := hroom hresv
  have hsucc := cdist_succ_right (a := f.headW) (b := f.tail) (m := f.cfg.slots) (by omega)
  rw [hfull, cdist_self f.headW_lt] at hsucc
  omega

end

/-! ### The commands on the queue (41_fixed_slot_fifo.md R130, R143) -/

section
variable {s t : State} {i : Instr}

theorem exec_fpPush_queue {data : Nat} (hinv : s.fixed.Inv) (h : exec (.fpPush data) s = .next t)
    (hfault : s.fixed.fault = none) (hresv : s.fixed.resv = true) :
    t.fixed.queue = s.fixed.queue ++ [storeRead s.fixed.mem s.fixed.tail] := by
  have hle := hinv.cdist_head_tail_le
  obtain ⟨⟨htail, -, -, hhead, -⟩, -, -, hroom⟩ := hinv
  have hroom := hroom hresv
  cases (fixedWEdge_next.2 (.inr (.inr ⟨hfault, _, _, fpPushPart_ok.2 ⟨hresv, rfl, rfl⟩, rfl⟩))).symm.trans h
  exact Fixed.queue_of_tail_succ rfl rfl rfl rfl hhead htail (by omega)

theorem exec_fcPop_queue (hinv : s.fixed.Inv) (h : exec .fcPop s = .next t) (hfault : t.fixed.fault = none) :
    s.fixed.queue = storeRead s.fixed.mem s.fixed.head :: t.fixed.queue := by
  obtain ⟨-, f, r, hok, rfl⟩ := fixedREdge_unfaulted h hfault
  obtain ⟨hshown, rfl, -⟩ := fcPopPart_ok.1 hok
  have hne := hinv.head_ne_tail hshown
  obtain ⟨⟨htail, -, -, hhead, -⟩, -⟩ := hinv
  exact Fixed.queue_of_head_succ rfl rfl rfl rfl hhead htail hne

theorem exec_keeps_queue (hinv : s.fixed.Inv) (hpush : ∀ data, i ≠ .fpPush data) (hpop : i ≠ .fcPop)
    (h : exec i s = .next t) : t.fixed.queue = s.fixed.queue :=
  Fixed.queue_congr (exec_keeps_cfg h).1 (exec_keeps_fixed_head hpop h) (exec_keeps_fixed_tail hpush h)
    fun _ hk => exec_storeRead_fixed (hinv.unread_ne_tail hk) h

theorem exec_faulted_keeps_queue (h : exec i s = .next t) (hfault : t.fixed.fault ≠ none) :
    t.fixed.queue = s.fixed.queue := by
  obtain ⟨record, hfixed⟩ := exec_fixed_of_faulted h hfault
  rw [hfixed]
  rfl

end

/-! ### Commands one after the other -/

section
variable {s t : State} {i : Instr}

theorem execAll_cons {is : List Instr} :
    execAll (i :: is) s = .next t ↔ ∃ u, exec i s = .next u ∧ execAll is u = .next t := by
  rw [execAll]
  cases exec i s <;> simp

theorem execAll_append {is js : List Instr} :
    execAll (is ++ js) s = .next t ↔ ∃ u, execAll is s = .next u ∧ execAll js u = .next t := by
  induction is generalizing s with
  | nil => simp [execAll]
  | cons i is ih =>
    simp only [List.cons_append, execAll_cons, ih]
    tauto

theorem execAll_singleton : execAll [i] s = .next t ↔ exec i s = .next t := by
  rw [execAll_cons]
  simp [execAll]

theorem execAll_keeps_cfg {is : List Instr} (h : execAll is s = .next t) :
    t.fixed.cfg = s.fixed.cfg ∧ t.var.cfg = s.var.cfg := by
  induction is generalizing s with
  | nil => cases h; exact ⟨rfl, rfl⟩
  | cons i is ih =>
    obtain ⟨u, hu, ht⟩ := execAll_cons.1 h
    obtain ⟨hfixed, hvar⟩ := ih ht
    exact ⟨hfixed.trans (exec_keeps_cfg hu).1, hvar.trans (exec_keeps_cfg hu).2⟩

end

/-! ### Filling the FIFO: a run without a pop (41_fixed_slot_fifo.md R141) -/

/-- Nothing the producer could learn a pop from has moved since reset: `f_head`, its published and its Gray register
and every stage that carries it to the producer are 0. -/
def Fixed.NeverPopped (f : Fixed) : Prop :=
  f.head = 0 ∧ f.rpub = 0 ∧ f.rgray = 0 ∧ ∀ x ∈ f.rsync, x = 0

/-- `n` slots were pushed and none popped since reset, and a held reservation leaves one slot free. -/
def Fixed.Filled (f : Fixed) (n : Nat) : Prop :=
  f.NeverPopped ∧ f.tail = n ∧ n < f.cfg.slots ∧ (f.resv = true → n + 1 < f.cfg.slots)

section
variable {f pre : Fixed} {n : Nat}

theorem Fixed.NeverPopped.headW_eq (h : f.NeverPopped) : f.headW = 0 := by
  obtain ⟨-, -, -, hrsync⟩ := h
  have hlast : lastStage f.cfg.stages f.rsync = 0 := by
    rw [lastStage, List.getD_eq_getElem?_getD]
    cases hx : f.rsync[f.cfg.stages - 1]? with
    | none => rfl
    | some x => exact hrsync x (List.mem_of_getElem? hx)
  rw [headW, hlast, gray2bin_zero]

theorem Fixed.NeverPopped.wTick (h : pre.NeverPopped) (hside : pre.SameReadSide f) :
    (f.wTick pre).NeverPopped := by
  obtain ⟨hhead, hrpub, hrgray, hrsync⟩ := h
  obtain ⟨hhead', hrpub', hrgray', -⟩ := hside
  refine ⟨hhead'.trans hhead, hrpub'.trans hrpub, hrgray'.trans hrgray, fun x hx => ?_⟩
  obtain rfl | hx := mem_shiftIn hx
  · exact hrgray
  · exact hrsync x hx

/-- With the head at 0 and published as 0, the publish step publishes 0 again. -/
theorem Fixed.NeverPopped.rTick (h : pre.NeverPopped) (hhead : f.head = pre.head) (hrsync : f.rsync = pre.rsync) :
    (f.rTick pre).NeverPopped := by
  obtain ⟨hhead', hrpub, -, hrsync'⟩ := h
  have hpub : publishStep pre.rpub pre.head pre.cfg.slots = 0 := by rw [hrpub, hhead']; rfl
  refine ⟨hhead.trans hhead', hpub, ?_, ?_⟩
  · rw [rTick_rgray, hpub, bin2gray_zero]
  · rw [rTick_rsync, hrsync]
    exact hrsync'

theorem Fixed.filled_powerUp (c : FixedConfig) : (Fixed.powerUp c).Filled 0 :=
  ⟨⟨rfl, rfl, rfl, fun _ => List.eq_of_mem_replicate⟩, rfl, slots_pos c, nofun⟩

theorem Fixed.Filled.lt_slots (h : f.Filled n) : n < f.cfg.slots := by
  obtain ⟨-, -, hlt, -⟩ := h
  exact hlt

/-- The producer sees the FIFO as full exactly when `N - 1` slots were pushed. -/
theorem Fixed.Filled.full_iff (h : f.Filled n) :
    (f.tail + 1) % f.cfg.slots = f.headW ↔ n + 1 = f.cfg.slots := by
  obtain ⟨hnever, rfl, hlt, -⟩ := h
  rw [hnever.headW_eq, succ_mod_of_lt hlt]
  split <;> omega

end

section
variable {s t : State} {i : Instr} {n : Nat}

theorem exec_keeps_neverPopped (hnever : s.fixed.NeverPopped) (hpop : i ≠ .fcPop) (h : exec i s = .next t) :
    t.fixed.NeverPopped := by
  have hhead := exec_keeps_fixed_head hpop h
  cases hp : i.port with
  | fp =>
    obtain ⟨part, hpart, hexec⟩ := exec_fp hp
    obtain ⟨-, rfl⟩ | ⟨-, code, -, rfl⟩ | ⟨-, f, r, hok, rfl⟩ := fixedWEdge_next.1 (hexec s s.var.cfg ▸ h)
    · exact hnever
    · exact hnever
    · obtain ⟨tail, resv, mem, rfl⟩ := hpart _ _ _ hok
      exact hnever.wTick s.fixed.sameReadSide_refl
  | fc =>
    obtain ⟨part, hpart, hexec⟩ := exec_fc hp
    obtain ⟨-, rfl⟩ | ⟨-, code, -, rfl⟩ | ⟨-, f, r, hok, rfl⟩ := fixedREdge_next.1 (hexec s s.var.cfg ▸ h)
    · exact hnever
    · exact hnever
    · obtain ⟨head, rfl⟩ := hpart _ _ _ hok
      exact hnever.rTick hhead rfl
  | vp => exact exec_var_keeps_fixed (by rw [hp]; rfl) h ▸ hnever
  | vc => exact exec_var_keeps_fixed (by rw [hp]; rfl) h ▸ hnever

/-- A command that neither pops nor faults pushes one slot if it is FP.PUSH and none otherwise. -/
theorem exec_filled (hfilled : s.fixed.Filled n) (hpop : i ≠ .fcPop) (h : exec i s = .next t)
    (hfault : t.fixed.fault = none) : t.fixed.Filled (n + if isFpPush i then 1 else 0) := by
  have hfull := hfilled.full_iff
  obtain ⟨hnever, htail, hlt, hresv⟩ := hfilled
  have hnever := exec_keeps_neverPopped hnever hpop h
  cases i with
  | fpNop data =>
    obtain ⟨-, f, r, hok, rfl⟩ := fixedWEdge_unfaulted (w := fpWord 0 data) (p := fpNopPart s.fixed) h hfault
    obtain ⟨rfl, -⟩ := fpNopPart_ok.1 hok
    exact ⟨hnever, htail, hlt, hresv⟩
  | fpAlloc data =>
    obtain ⟨-, f, r, hok, rfl⟩ := fixedWEdge_unfaulted h hfault
    obtain ⟨hfree, rfl, -⟩ | ⟨-, rfl, -⟩ := fpAllocPart_ok.1 hok
    · exact ⟨hnever, htail, hlt, fun _ => Nat.lt_of_le_of_ne hlt (mt hfull.2 hfree)⟩
    · exact ⟨hnever, htail, hlt, hresv⟩
  | fpWrite data =>
    obtain ⟨-, f, r, hok, rfl⟩ := fixedWEdge_unfaulted h hfault
    obtain ⟨-, -, rfl, -⟩ := fpWritePart_ok.1 hok
    exact ⟨hnever, htail, hlt, hresv⟩
  | fpPush data =>
    obtain ⟨-, f, r, hok, rfl⟩ := fixedWEdge_unfaulted h hfault
    obtain ⟨hheld, rfl, -⟩ := fpPushPart_ok.1 hok
    have hroom := hresv hheld
    exact ⟨hnever, by simp [isFpPush, htail, Nat.mod_eq_of_lt hroom], hroom, nofun⟩
  | fcPop => exact absurd rfl hpop
  | fcNop | fcFront | fcReserved =>
    obtain ⟨htail', hresv', -⟩ := (exec_read_sameWriteSide rfl h).1
    have hcfg := (exec_keeps_cfg h).1
    exact ⟨hnever, htail'.trans htail, hcfg ▸ hlt, hcfg ▸ hresv' ▸ hresv⟩
  | _ =>
    rw [exec_var_keeps_fixed rfl h] at hnever ⊢
    exact ⟨hnever, htail, hlt, hresv⟩

/-- A run from reset without a pop and without a fault has filled as many slots as it pushed. -/
theorem execAll_filled {fc : FixedConfig} {vc : VarConfig} {cmds : List Instr}
    (hcmds : ∀ i ∈ cmds, i.port.kind = .fixedSlot ∧ i ≠ .fcPop)
    (h : execAll cmds (State.resetOf fc vc) = .next t) (hfault : t.fixed.fault = none) :
    t.fixed.Filled (cmds.countP isFpPush) := by
  induction cmds using List.reverseRecOn generalizing t with
  | nil => cases h; exact Fixed.filled_powerUp fc
  | append_singleton cmds i ih =>
    obtain ⟨u, hcmdsRun, hi⟩ := execAll_append.1 h
    rw [execAll_singleton] at hi
    obtain ⟨hk, hpop⟩ := hcmds i (by simp)
    have hfilled := ih (fun j hj => hcmds j (by simp [hj])) hcmdsRun (exec_fixed_unfaulted hk hi hfault)
    rw [List.countP_append, List.countP_singleton]
    exact exec_filled hfilled hpop hi hfault

/-! ### A pop reaches the producer after one read edge and `S` write edges (43_gray_pointer_sync.md R256) -/

theorem take_succ_shiftIn {stages : Nat} (hn : n + 1 ≤ stages) (g : Nat) (sync : List Nat) :
    (shiftIn stages g sync).take (n + 1) = g :: sync.take n := by
  rw [shiftIn, List.take_take, Nat.min_eq_left hn, List.take_succ_cons]

theorem lastStage_of_take {stages g : Nat} {sync : List Nat} (hstages : 0 < stages)
    (h : sync.take stages = List.replicate stages g) : lastStage stages sync = g := by
  have hlast : sync[stages - 1]? = some g := by
    rw [← List.getElem?_take_of_lt (show stages - 1 < stages by omega), h,
      List.getElem?_replicate_of_lt (by omega)]
  rw [lastStage, List.getD_eq_getElem?_getD, hlast, Option.getD_some]

/-- `n` write edges fill the first `n` stages of the write-domain synchroniser with the sampled Gray register. -/
theorem execAll_fpNops (hfault : s.fixed.fault = none) (hn : n ≤ s.fixed.cfg.stages) :
    ∃ t, execAll (List.replicate n (.fpNop 0)) s = .next t ∧ t.fixed.fault = none ∧ t.fixed.tail = s.fixed.tail ∧
      t.fixed.rgray = s.fixed.rgray ∧ t.fixed.rsync.take n = List.replicate n s.fixed.rgray := by
  induction n with
  | zero => exact ⟨s, rfl, hfault, rfl, rfl, rfl⟩
  | succ n ih =>
    obtain ⟨u, hu, hufault, hutail, hurgray, hursync⟩ := ih (by omega)
    obtain ⟨t, ht, -, hedge, httail, -⟩ :=
      fixedWEdge_taken (w := fpWord 0 0) fpNopPart_isFpPart hufault (fpNopPart_ok.2 ⟨rfl, rfl⟩)
    obtain ⟨-, htfault, ⟨-, -, htrgray, -⟩, -, -, htrsync⟩ := hedge
    refine ⟨t, ?_, htfault.trans hufault, httail.trans hutail, htrgray.trans hurgray, ?_⟩
    · rw [List.replicate_succ']
      exact execAll_append.2 ⟨u, hu, execAll_singleton.2 ht⟩
    · rw [htrsync, (execAll_keeps_cfg hu).1, take_succ_shiftIn hn, hursync, hurgray, List.replicate_succ]

theorem xorShifts_succ_one (k : Nat) : xorShifts (k + 1) 1 = 1 := by
  induction k with
  | zero => rfl
  | succ k ih =>
    rw [xorShifts, ih, Nat.shiftRight_eq_div_pow, Nat.div_eq_of_lt (Nat.one_lt_two_pow (by omega)), Nat.xor_zero]

theorem gray2bin_one {n : Nat} (hn : 1 ≤ n) : gray2bin n 1 = 1 := by
  obtain ⟨k, rfl⟩ := Nat.exists_eq_add_of_le' hn
  rw [gray2bin, Nat.mod_eq_of_lt (Nat.one_lt_two_pow (by omega)), xorShifts_succ_one]

theorem one_lt_slots (c : FixedConfig) : 1 < c.slots := by
  obtain ⟨-, hfAw, -⟩ := c.legal
  exact Nat.one_lt_two_pow (by omega)

/-- Once `f_head` is 1, one read edge publishes it and `S` write edges later the producer sees it. -/
theorem execAll_shows_first_pop (hfault : s.fixed.fault = none) (hhead : s.fixed.head = 1) (hrpub : s.fixed.rpub = 0) :
    ∃ t, execAll (.fcNop :: List.replicate s.fixed.cfg.stages (.fpNop 0)) s = .next t ∧ t.fixed.fault = none ∧
      t.fixed.tail = s.fixed.tail ∧ t.fixed.headW = 1 := by
  obtain ⟨-, hfAw, -, hstages⟩ := s.fixed.cfg.legal
  obtain ⟨u, hu, -, hedge, -⟩ :=
    fixedREdge_taken (w := fcWord 0) fcNopPart_isFcPart hfault (fcNopPart_ok.2 ⟨rfl, rfl⟩)
  obtain ⟨hucfg, hufault, ⟨hutail, -⟩, -, hurgray, -⟩ := hedge
  have hpub : publishStep s.fixed.rpub s.fixed.head s.fixed.cfg.slots = 1 := by
    rw [hrpub, hhead, publishStep, if_neg (by omega), Nat.zero_add, Nat.mod_eq_of_lt (one_lt_slots _)]
  have hgray : u.fixed.rgray = 1 := by rw [hurgray, hpub]; rfl
  obtain ⟨t, ht, htfault, httail, -, htrsync⟩ := execAll_fpNops (hufault.trans hfault) (Nat.le_refl _)
  refine ⟨t, execAll_cons.2 ⟨u, hu, hucfg ▸ ht⟩, htfault, httail.trans hutail, ?_⟩
  have htcfg := (execAll_keeps_cfg ht).1
  rw [Fixed.headW, htcfg, lastStage_of_take (by rw [hucfg]; omega) htrsync, hgray, hucfg, gray2bin_one hfAw]

/-- A full FIFO that was never popped reserves slot `N - 1` once a pop has reached the producer (R141). -/
theorem execAll_reserves_after_pop (hfilled : s.fixed.Filled (s.fixed.cfg.slots - 1)) (h : exec .fcPop s = .next t)
    (hfault : t.fixed.fault = none) :
    ∃ w, execAll (.fcNop :: (List.replicate s.fixed.cfg.stages (.fpNop 0) ++ [.fpAlloc 0])) t = .next w ∧
      w.resp = .fp (fpReserved (s.fixed.cfg.slots - 1)) := by
  have hslots := one_lt_slots s.fixed.cfg
  obtain ⟨⟨hhead, hrpub, -, -⟩, htail, -, -⟩ := hfilled
  obtain ⟨htcfg, -⟩ := exec_keeps_cfg h
  have httail : t.fixed.tail = s.fixed.cfg.slots - 1 := (exec_keeps_fixed_tail (by simp) h).trans htail
  obtain ⟨-, f, r, hok, rfl⟩ := fixedREdge_unfaulted h hfault
  obtain ⟨-, rfl, -⟩ := fcPopPart_ok.1 hok
  have hhead' : (s.fixed.head + 1) % s.fixed.cfg.slots = 1 := by rw [hhead, Nat.zero_add, Nat.mod_eq_of_lt hslots]
  have hrpub' : publishStep s.fixed.rpub s.fixed.head s.fixed.cfg.slots = 0 := by rw [hrpub, hhead]; rfl
  obtain ⟨u, hu, hufault, hutail, huheadW⟩ := execAll_shows_first_pop hfault hhead' hrpub'
  have hucfg := (execAll_keeps_cfg hu).1
  have hfree : (u.fixed.tail + 1) % u.fixed.cfg.slots ≠ u.fixed.headW := by
    rw [hutail, httail, hucfg, htcfg, huheadW, Nat.sub_add_cancel (slots_pos _), Nat.mod_self]
    exact Nat.zero_ne_one
  obtain ⟨w, hw, ⟨-, -, hresp⟩, -⟩ := fixedWEdge_taken (w := fpWord 1 0) fpAllocPart_isFpPart hufault
    (fpAllocPart_ok.2 (.inl ⟨hfree, rfl, rfl⟩))
  refine ⟨w, ?_, ?_⟩
  · rw [← List.cons_append]
    exact execAll_append.2 ⟨u, hu, execAll_singleton.2 hw⟩
  · rw [hresp, hutail, httail]

end

end Sys2Proof.Machine

/-! ### The statements -/

namespace Sys2Proof.Proofs

open Sys2Proof.Machine

/-- Settles O49: the queue is the slots between the pointers, of which FP.PUSH moves one, FC.POP the other and no
command writes a slot between them; the chain invariant gives the push its room and the pop its element. -/
theorem fixedFifoRefinesAQueue : Obligations.FixedFifoRefinesAQueue := by
  intro i s t hinv h
  refine ⟨?_, ?_, fun hpush hpop => exec_keeps_queue hinv hpush hpop h, exec_faulted_keeps_queue h, ?_⟩
  · rintro data rfl hfault hresv
    exact exec_fpPush_queue hinv h hfault hresv
  · rintro rfl hfault
    exact ⟨_, exec_fcPop_queue hinv h hfault⟩
  · intro slot data hr
    obtain ⟨hslot, hshown, hmem⟩ := exec_shown h hr
    exact ⟨hslot, by rw [hinv.head?_queue hshown, hmem]⟩

/-- Settles O10: the reservation invariant keeps a slot free beyond the reserved one, so FP.ALLOC is not refused. -/
theorem fpAllocAgainReturnsTheSameSlot : Obligations.FpAllocAgainReturnsTheSameSlot :=
  fun _ _ hinv hfault hresv => fixedWEdge_taken fpAllocPart_isFpPart hfault
    (fpAllocPart_ok.2 (.inl ⟨hinv.not_full_of_resv hresv, rfl, rfl⟩))

/-- Settles O59: the queue is no longer than what the producer sees as occupied. Without a pop the producer's view of
the head stays 0, so `f_tail` counts the pushes and a reservation needs a free slot beyond its own; the first pop
reaches the producer's view after one read edge and `S` write edges. -/
theorem fixedFifoHoldsAtMostNMinusOne : Obligations.FixedFifoHoldsAtMostNMinusOne := by
  refine ⟨fun f hinv => hinv.length_queue_le, fun fc vc cmds t hcmds h hfault => ?_⟩
  have hfilled := execAll_filled hcmds h hfault
  have hfull := hfilled.full_iff
  obtain rfl : t.fixed.cfg = fc := (execAll_keeps_cfg h).1
  refine ⟨Nat.le_sub_one_of_lt hfilled.lt_slots, fun hcount => ⟨fun data => ?_, fun u hu hufault => ?_⟩⟩
  · obtain ⟨u, hu, ⟨-, -, hresp⟩, -⟩ := fixedWEdge_taken (w := fpWord 1 data) fpAllocPart_isFpPart hfault
      (fpAllocPart_ok.2 (.inr ⟨hfull.2 (hcount ▸ Nat.sub_add_cancel (slots_pos _)), rfl, rfl⟩))
    exact ⟨u, hu, hresp⟩
  · exact execAll_reserves_after_pop (hcount ▸ hfilled) hu hufault

/-- Settles O8: the command part of a NOP answers the state it is given. -/
theorem idleCommandsOnlyPublishAndShift : Obligations.IdleCommandsOnlyPublishAndShift := fun s =>
  ⟨fun hfault =>
      ⟨fun data => fixedWEdge_taken (w := fpWord 0 data) fpNopPart_isFpPart hfault (fpNopPart_ok.2 ⟨rfl, rfl⟩),
        fixedREdge_taken (w := fcWord 0) fcNopPart_isFcPart hfault (fcNopPart_ok.2 ⟨rfl, rfl⟩)⟩,
    fun hfault =>
      ⟨fun a b => varWEdge_taken (w := vpWord s.var.cfg 0 a b) vpNopPart_isVpPart hfault (vpNopPart_ok.2 ⟨rfl, rfl⟩),
        fun a => varREdge_taken (w := vcWord 0 a) vcNopPart_isVcPart hfault (vcNopPart_ok.2 ⟨rfl, rfl⟩)⟩⟩

/-- Settles O9, by whether the producer sees the FIFO as full. -/
theorem fpAllocReservesTheTailSlotOrReportsFull : Obligations.FpAllocReservesTheTailSlotOrReportsFull := by
  intro data s hfault
  by_cases hfull : (s.fixed.tail + 1) % s.fixed.cfg.slots = s.fixed.headW
  · obtain ⟨t, hexec, honly, hedge, htail, hresv, hmem⟩ := fixedWEdge_taken (w := fpWord 1 data)
      fpAllocPart_isFpPart hfault (fpAllocPart_ok.2 (.inr ⟨hfull, rfl, rfl⟩))
    exact ⟨t, hexec, hedge, htail, hmem, (if_neg (not_not_intro hfull)).mpr ⟨hresv, honly⟩⟩
  · obtain ⟨t, hexec, honly, hedge, htail, hresv, hmem⟩ := fixedWEdge_taken (w := fpWord 1 data)
      fpAllocPart_isFpPart hfault (fpAllocPart_ok.2 (.inl ⟨hfull, rfl, rfl⟩))
    exact ⟨t, hexec, hedge, htail, hmem, (if_pos hfull).mpr ⟨hresv, honly⟩⟩

/-- Settles O11, by whether a reservation is held. -/
theorem fpWriteStoresIntoTheReservedSlot : Obligations.FpWriteStoresIntoTheReservedSlot := by
  refine fun data s hfault => ⟨fun hresv htail => ?_,
    fun hresv => fixedWEdge_faults hfault (fpWritePart_of_no_resv hresv data)⟩
  obtain ⟨t, hexec, honly, hedge, htail', hresv', hmem⟩ := fixedWEdge_taken (w := fpWord 2 data)
    (fpWritePart_isFpPart data) hfault (fpWritePart_ok.2 ⟨hresv, htail, rfl, rfl⟩)
  exact ⟨t, hexec, honly, hedge, htail', hresv', fun a => (hmem a).trans (storeRead_storeWrite ..)⟩

/-- Settles O12, by whether a reservation is held. -/
theorem fpPushAdvancesTheTail : Obligations.FpPushAdvancesTheTail := fun _ _ hfault =>
  ⟨fun hresv => fixedWEdge_taken fpPushPart_isFpPart hfault (fpPushPart_ok.2 ⟨hresv, rfl, rfl⟩),
    fun hresv => fixedWEdge_faults hfault (fpPushPart_of_no_resv hresv)⟩

/-- Settles O13, by whether the consumer sees an element and whether its slot was written. -/
theorem fcFrontShowsTheHeadSlot : Obligations.FcFrontShowsTheHeadSlot := by
  refine fun s hfault => ⟨fun hempty => ?_, fun hshown hhead => ?_⟩
  · exact fixedREdge_taken fcFrontPart_isFcPart hfault (fcFrontPart_ok.2 ⟨rfl, .inl ⟨hempty, rfl⟩⟩)
  · split
    · next d hmem =>
      exact fixedREdge_taken fcFrontPart_isFcPart hfault
        (fcFrontPart_ok.2 ⟨rfl, .inr ⟨hshown, hhead, d, hmem, rfl⟩⟩)
    · next hmem => exact fixedREdge_faults hfault (fcFrontPart_of_unwritten hshown hhead hmem)

/-- Settles O14, by whether the consumer sees an element. -/
theorem fcPopAdvancesTheHead : Obligations.FcPopAdvancesTheHead := fun _ hfault =>
  ⟨fun hshown => fixedREdge_taken fcPopPart_isFcPart hfault (fcPopPart_ok.2 ⟨hshown, rfl, rfl⟩),
    fun hempty => fixedREdge_faults hfault (fcPopPart_of_empty hempty)⟩

/-- Settles O15: the command part of FC op 11 always raises the fault. -/
theorem fcReservedRecordsItsFault : Obligations.FcReservedRecordsItsFault :=
  fun _ hfault => fixedREdge_faults hfault rfl

end Sys2Proof.Proofs

/-!
PROOFS of the variable-length FIFO's statements (42_variable_packet_fifo.md): where a message is placed, what each
command does, that the FIFO is a queue of messages, that what FRONT shows stays until POP, and that VP.ALLOC can be
repeated. The rules of the ring, of segments, of placement and of the invariant come first; the statements are settled
at the end.
-/

namespace Sys2Proof.Machine

/-! ### A chain goes around at most once iff its distances to its end never grow (43_gray_pointer_sync.md R247, R248) -/

section
variable {a b t m : Nat}

/-- A position no farther from `t` than `a` lies on the way from `a` to `t`. -/
theorem cdist_add_cdist (ha : a < m) (hb : b < m) (ht : t < m) (hle : cdist b t m ≤ cdist a t m) :
    cdist a b m + cdist b t m = cdist a t m := by
  rw [cdist_eq ha ht, cdist_eq hb ht] at *
  rw [cdist_eq ha hb]
  split_ifs at * <;> omega

theorem cdist_add_cdist_iff (ha : a < m) (hb : b < m) (ht : t < m) :
    cdist a b m + cdist b t m = cdist a t m ↔ cdist b t m ≤ cdist a t m :=
  ⟨fun h => h ▸ Nat.le_add_left _ _, cdist_add_cdist ha hb ht⟩

/-- A tail that moves forward by less than what is left of the ring moves away from every position behind it. -/
theorem cdist_add_right {e : Nat} (h : cdist a t m + e < m) : cdist a ((t + e) % m) m = cdist a t m + e := by
  have hsum : cdist a ((t + e) % m) m = (cdist a t m + e) % m := by
    simp only [cdist, Nat.mod_add_mod]
    congr 1
    omega
  rw [hsum, Nat.mod_eq_of_lt h]

/-- A head that moves forward, no farther than the tail, comes nearer to it by as much. -/
theorem cdist_add_left {e : Nat} (ha : a < m) (ht : t < m) (he : e ≤ cdist a t m) :
    cdist ((a + e) % m) t m = cdist a t m - e := by
  have hlt : (a + e) % m < m := Nat.mod_lt _ (by omega)
  rw [cdist_eq ha ht] at he ⊢
  rw [cdist_eq hlt ht]
  by_cases hwrap : a + e < m
  · rw [Nat.mod_eq_of_lt hwrap]
    split_ifs at * <;> omega
  · rw [Nat.mod_eq_sub_mod (Nat.not_lt.1 hwrap), Nat.mod_eq_of_lt (by split at he <;> omega)]
    split_ifs at * <;> omega

/-- A chain that ends at `t` is as short as can be iff no position is farther from `t` than one before it. -/
theorem chainLength_eq_cdist_iff (ht : t < m) {l : List Nat} (ha : a < m) (hl : ∀ x ∈ l, x < m) :
    chainLength m (a :: l ++ [t]) = cdist a t m ↔
      (a :: l).Pairwise fun x y => cdist y t m ≤ cdist x t m := by
  induction l generalizing a with
  | nil => simp [chainLength]
  | cons b l ih =>
    obtain ⟨hb, hl⟩ := List.forall_mem_cons.1 hl
    have hchain := cdist_le_chainLength (m := m) (by omega) b t l
    have htriangle := cdist_triangle (m := m) (by omega) a b t
    have hsplit : chainLength m (a :: b :: l ++ [t]) = cdist a t m ↔
        cdist a b m + cdist b t m = cdist a t m ∧ chainLength m (b :: l ++ [t]) = cdist b t m := by
      simp only [List.cons_append, chainLength] at hchain ⊢
      omega
    rw [hsplit, ih hb hl, cdist_add_cdist_iff ha hb ht, List.pairwise_cons (a := a), List.forall_mem_cons]
    refine ⟨fun ⟨hab, hbl⟩ => ⟨⟨hab, fun x hx => ?_⟩, hbl⟩, fun ⟨⟨hab, _⟩, hbl⟩ => ⟨hab, hbl⟩⟩
    exact (List.rel_of_pairwise_cons hbl hx).trans hab

/-- The positions of a chain, each no farther from the tail `t` than the ones before it: the stages of `rsync` from
the last to stage 0, the published and the true head, the stages of `wsync`, the published tail. -/
structure InOrder (m t : Nat) (rsync : List Nat) (rpub head : Nat) (wsync : List Nat) (wpub : Nat) : Prop where
  rsync_sorted : rsync.Pairwise fun x y => cdist x t m ≤ cdist y t m
  rpub_le : ∀ x ∈ rsync, cdist rpub t m ≤ cdist x t m
  head_le : cdist head t m ≤ cdist rpub t m
  wsync_le : ∀ x ∈ wsync, cdist x t m ≤ cdist head t m
  wsync_sorted : wsync.Pairwise fun x y => cdist x t m ≤ cdist y t m
  wpub_le : ∀ x ∈ wsync, cdist wpub t m ≤ cdist x t m
  wpub_le_head : cdist wpub t m ≤ cdist head t m

variable {rsync wsync : List Nat} {rpub head wpub : Nat}

theorem inOrder_iff_pairwise :
    InOrder m t rsync rpub head wsync wpub ↔
      (rsync.reverse ++ [rpub, head] ++ wsync.reverse ++ [wpub]).Pairwise
        fun x y => cdist y t m ≤ cdist x t m := by
  simp only [List.pairwise_append, List.pairwise_reverse, List.mem_append, List.mem_reverse, List.mem_cons,
    List.not_mem_nil, or_false, List.pairwise_cons, List.Pairwise.nil]
  constructor
  · rintro ⟨hrsync, hrpub, hhead, hwsync, hwsorted, hwpub, hwhead⟩
    grind
  · intro h
    constructor <;> grind

/-- The chain of `wsync` and `rsync` around the ring goes around at most once iff it is in order. -/
theorem chain_eq_cdist_iff_inOrder (hr : ∀ x ∈ rsync, x < m) (hrpub : rpub < m) (hhead : head < m)
    (hw : ∀ x ∈ wsync, x < m) (hwpub : wpub < m) (ht : t < m) {last : Nat} {l : List Nat}
    (hlast : rsync.reverse = last :: l) :
    chainLength m (rsync.reverse ++ [rpub, head] ++ wsync.reverse ++ [wpub, t]) = cdist last t m ↔
      InOrder m t rsync rpub head wsync wpub := by
  have hmem : ∀ x ∈ last :: l, x < m := fun x hx => hr x (List.mem_reverse.1 (hlast ▸ hx))
  rw [inOrder_iff_pairwise, hlast]
  have hiff := chainLength_eq_cdist_iff ht (a := last) (l := l ++ [rpub, head] ++ wsync.reverse ++ [wpub])
    (hmem _ (List.mem_cons_self ..)) (by grind)
  simpa using hiff

namespace InOrder

/-- The synchroniser of the write domain takes the published head, the published tail moves nearer to the tail. -/
theorem writeShift (h : InOrder m t rsync rpub head wsync wpub) (n : Nat) {wpub' : Nat}
    (hpub : cdist wpub' t m ≤ cdist wpub t m) :
    InOrder m t ((rpub :: rsync).take n) rpub head wsync wpub' where
  rsync_sorted := (List.pairwise_cons.2 ⟨h.rpub_le, h.rsync_sorted⟩).sublist (List.take_sublist ..)
  rpub_le x hx := (List.mem_cons.1 (List.mem_of_mem_take hx)).elim (fun hx => hx ▸ Nat.le_refl _) (h.rpub_le x)
  head_le := h.head_le
  wsync_le := h.wsync_le
  wsync_sorted := h.wsync_sorted
  wpub_le x hx := hpub.trans (h.wpub_le x hx)
  wpub_le_head := hpub.trans h.wpub_le_head

/-- The synchroniser of the read domain takes the published tail, the published head moves nearer to the head. -/
theorem readShift (h : InOrder m t rsync rpub head wsync wpub) (n : Nat) {rpub' : Nat}
    (hpub : cdist rpub' t m ≤ cdist rpub t m) (hhead : cdist head t m ≤ cdist rpub' t m) :
    InOrder m t rsync rpub' head ((wpub :: wsync).take n) wpub where
  rsync_sorted := h.rsync_sorted
  rpub_le x hx := hpub.trans (h.rpub_le x hx)
  head_le := hhead
  wsync_le x hx := (List.mem_cons.1 (List.mem_of_mem_take hx)).elim (fun hx => hx ▸ h.wpub_le_head) (h.wsync_le x)
  wsync_sorted := (List.pairwise_cons.2 ⟨h.wpub_le, h.wsync_sorted⟩).sublist (List.take_sublist ..)
  wpub_le x hx := (List.mem_cons.1 (List.mem_of_mem_take hx)).elim (fun hx => hx ▸ Nat.le_refl _) (h.wpub_le x)
  wpub_le_head := h.wpub_le_head

/-- The head moves forward, no farther than what the read domain sees. -/
theorem moveHead (h : InOrder m t rsync rpub head wsync wpub) {head' : Nat}
    (hhead : cdist head' t m ≤ cdist head t m) (hwsync : ∀ x ∈ wsync, cdist x t m ≤ cdist head' t m)
    (hwpub : cdist wpub t m ≤ cdist head' t m) : InOrder m t rsync rpub head' wsync wpub :=
  { h with head_le := hhead.trans h.head_le, wsync_le := hwsync, wpub_le_head := hwpub }

end InOrder

end

/-! ### The views are among the stages, and the stages in order (43_gray_pointer_sync.md R231, R241, R247, R248) -/

theorem xorShifts_bin2gray (x k : Nat) : xorShifts k (bin2gray x) = x ^^^ (x >>> k) := by
  induction k with
  | zero => simp [xorShifts]
  | succ k ih =>
    rw [xorShifts, ih, bin2gray, Nat.shiftRight_xor_distrib, ← Nat.shiftRight_add, Nat.add_comm 1 k, Nat.xor_assoc,
      ← Nat.xor_assoc (x >>> k), Nat.xor_self, Nat.zero_xor]

/-- Decoding inverts coding on n-bit values (R231). -/
theorem gray2bin_bin2gray {n x : Nat} (hx : x < 2 ^ n) : gray2bin n (bin2gray x) = x := by
  rw [gray2bin, Nat.mod_eq_of_lt (bin2gray_lt hx), xorShifts_bin2gray, Nat.shiftRight_eq_div_pow,
    Nat.div_eq_of_lt hx, Nat.xor_zero]

/-- The stages before the last, and the last (R241). -/
theorem exists_eq_append_lastStage {stages : Nat} {sync : List Nat} (hlength : sync.length = stages)
    (hstages : 0 < stages) : ∃ l, sync = l ++ [lastStage stages sync] := by
  obtain ⟨l, hl⟩ := exists_reverse_eq_lastStage_cons hlength hstages
  exact ⟨l.reverse, by rw [← List.reverse_cons, ← hl, List.reverse_reverse]⟩

theorem lastStage_mem {stages : Nat} {sync : List Nat} (hlength : sync.length = stages) (hstages : 0 < stages) :
    lastStage stages sync ∈ sync := by
  obtain ⟨l, hl⟩ := exists_reverse_eq_lastStage_cons hlength hstages
  exact List.mem_reverse.1 (hl ▸ List.mem_cons_self)

/-- In a synchroniser whose stages are in order none is farther from the tail than the last. -/
theorem le_lastStage {D : Nat → Nat} {stages x : Nat} {sync : List Nat} (hlength : sync.length = stages)
    (hstages : 0 < stages) (hsorted : sync.Pairwise fun x y => D x ≤ D y) (hx : x ∈ sync) :
    D x ≤ D (lastStage stages sync) := by
  obtain ⟨l, hl⟩ := exists_eq_append_lastStage hlength hstages
  rw [hl] at hx hsorted
  obtain hx | hx := List.mem_append.1 hx
  · exact (List.pairwise_append.1 hsorted).2.2 x hx _ (List.mem_singleton_self _)
  · rw [List.mem_singleton.1 hx]

/-- After a shift the last stage is no farther from the tail than before, if the sample is no farther than any stage. -/
theorem lastStage_shiftIn_le {D : Nat → Nat} {stages g : Nat} {sync : List Nat} (hlength : sync.length = stages)
    (hstages : 0 < stages) (hsorted : sync.Pairwise fun x y => D x ≤ D y) (hg : ∀ x ∈ sync, D g ≤ D x) :
    D (lastStage stages (shiftIn stages g sync)) ≤ D (lastStage stages sync) := by
  obtain hx | hx := mem_shiftIn (lastStage_mem (shiftIn_length (g := g) hlength) hstages)
  · rw [hx]
    exact hg _ (lastStage_mem hlength hstages)
  · exact le_lastStage hlength hstages hsorted hx

/-- A shift, stage by stage decoded. -/
theorem map_shiftIn (decode : Nat → Nat) (stages g : Nat) (sync : List Nat) :
    (shiftIn stages g sync).map decode = (decode g :: sync.map decode).take stages := by
  rw [shiftIn, List.map_take, List.map_cons]

theorem fixed_stages_pos (c : FixedConfig) : 0 < c.stages := by
  obtain ⟨-, -, -, hstages⟩ := c.legal
  omega

theorem var_stages_pos (c : VarConfig) : 0 < c.stages := by
  obtain ⟨-, -, -, -, hstages⟩ := c.legal
  omega

section
variable {f : Fixed}

/-- The positions of the fixed chain are in order (R247). -/
abbrev Fixed.Ordered (f : Fixed) : Prop :=
  InOrder f.cfg.slots f.tail (f.rsync.map (gray2bin f.cfg.fAw)) f.rpub f.head (f.wsync.map (gray2bin f.cfg.fAw)) f.wpub

theorem Fixed.chain_eq_cdist_iff_ordered (hsized : f.Sized) :
    chainLength f.cfg.slots f.chain = cdist f.headW f.tail f.cfg.slots ↔ f.Ordered := by
  obtain ⟨htail, hwpub, -, hhead, hrpub, -, hrlength, -⟩ := hsized
  obtain ⟨l, hl⟩ := exists_reverse_eq_lastStage_cons hrlength (fixed_stages_pos _)
  have hdecoded : ∀ sync : List Nat, ∀ x ∈ sync.map (gray2bin f.cfg.fAw), x < f.cfg.slots := by
    intro sync x hx
    obtain ⟨g, -, rfl⟩ := List.mem_map.1 hx
    exact gray2bin_lt _ _
  have hiff := chain_eq_cdist_iff_inOrder (hdecoded f.rsync) hrpub hhead (hdecoded f.wsync) hwpub htail
    (last := f.headW) (l := l.map (gray2bin f.cfg.fAw)) (by rw [← List.map_reverse, hl]; rfl)
  simpa only [Fixed.chain, ← List.map_reverse] using hiff

theorem Fixed.Inv.ordered (hinv : f.Inv) : f.Ordered := by
  obtain ⟨hsized, -, ⟨hchain, -⟩, -⟩ := hinv
  exact (chain_eq_cdist_iff_ordered hsized).1 hchain

/-- At a read-domain edge the consumer's view of the tail moves nearer to the tail, or stays (R244). -/
theorem Fixed.Inv.tailR_shift_le (hinv : f.Inv) :
    cdist (gray2bin f.cfg.fAw (lastStage f.cfg.stages (shiftIn f.cfg.stages f.wgray f.wsync))) f.tail f.cfg.slots ≤
      cdist f.tailR f.tail f.cfg.slots := by
  have hordered := hinv.ordered
  obtain ⟨⟨-, hwpub, -, -, -, -, -, -, hwlength, -⟩, ⟨hgray, -⟩, -⟩ := hinv
  refine lastStage_shiftIn_le (D := fun g => cdist (gray2bin f.cfg.fAw g) f.tail f.cfg.slots) hwlength
    (fixed_stages_pos _) ((List.pairwise_map (f := gray2bin f.cfg.fAw)).1 hordered.wsync_sorted) fun x hx => ?_
  simp only [hgray, gray2bin_bin2gray hwpub]
  exact hordered.wpub_le _ (List.mem_map_of_mem hx)

theorem Fixed.Inv.tailR_le (hinv : f.Inv) :
    cdist f.tailR f.tail f.cfg.slots ≤ cdist f.head f.tail f.cfg.slots := by
  have hordered := hinv.ordered
  obtain ⟨⟨-, -, -, -, -, -, -, -, hwlength, -⟩, -⟩ := hinv
  exact hordered.wsync_le _ (List.mem_map_of_mem (lastStage_mem hwlength (fixed_stages_pos _)))

end

section
variable {v : Variable}

/-! ### The parts of the variable invariant (10_state.md R49) -/

theorem Variable.Inv.tail_lt (hinv : v.Inv) : v.tail < v.cfg.capacity := by
  obtain ⟨⟨htail, -⟩, -⟩ := hinv
  exact htail

theorem Variable.Inv.head_lt (hinv : v.Inv) : v.head < v.cfg.capacity := by
  obtain ⟨⟨-, -, -, -, -, -, hhead, -⟩, -⟩ := hinv
  exact hhead

theorem Variable.Inv.reservation_lt (hinv : v.Inv) :
    v.resvOff < v.cfg.capacity ∧ v.resvTotal < v.cfg.capacity ∧ v.resvLen < v.cfg.capacity := by
  obtain ⟨⟨-, hoff, htotal, hlen, -⟩, -⟩ := hinv
  exact ⟨hoff, htotal, hlen⟩

theorem Variable.Inv.rsync_length (hinv : v.Inv) : v.rsync.length = v.cfg.stages := by
  obtain ⟨⟨-, -, -, -, -, -, -, -, -, hlength, -⟩, -⟩ := hinv
  exact hlength

theorem Variable.Inv.wsync_length (hinv : v.Inv) : v.wsync.length = v.cfg.stages := by
  obtain ⟨⟨-, -, -, -, -, -, -, -, -, -, -, hlength, -⟩, -⟩ := hinv
  exact hlength

theorem Variable.Inv.store_wf (hinv : v.Inv) : Store.wf v.mem := by
  obtain ⟨⟨-, -, -, -, -, -, -, -, -, -, -, -, -, hwf, -⟩, -⟩ := hinv
  exact hwf

theorem Variable.Inv.store_within (hinv : v.Inv) : Store.within v.cfg.capacity v.mem := by
  obtain ⟨⟨-, -, -, -, -, -, -, -, -, -, -, -, -, -, hwithin⟩, -⟩ := hinv
  exact hwithin

theorem Variable.Inv.aligned (hinv : v.Inv) : v.Aligned := by
  obtain ⟨-, haligned, -⟩ := hinv
  exact haligned

theorem Variable.Inv.headW_room (hinv : v.Inv) :
    cdist v.headW v.tail v.cfg.capacity ≤ v.cfg.capacity - v.cfg.block := by
  obtain ⟨-, -, -, ⟨-, hroom⟩, -⟩ := hinv
  exact hroom

theorem Variable.Inv.resvOk (hinv : v.Inv) : v.ResvOk := by
  obtain ⟨-, -, -, -, hresvOk, -⟩ := hinv
  exact hresvOk

theorem Variable.Inv.exists_unread (hinv : v.Inv) : ∃ l, v.unread = some l := by
  obtain ⟨-, -, -, -, -, hunread⟩ := hinv
  exact Option.isSome_iff_exists.1 hunread

/-! ### The variable chain in order (43_gray_pointer_sync.md R248) -/

/-- The positions of the variable chain are in order (R248). -/
abbrev Variable.Ordered (v : Variable) : Prop :=
  InOrder v.cfg.capacity v.tail (v.rsync.map v.offsetOf) (v.rpub * v.cfg.block) v.head (v.wsync.map v.offsetOf)
    (v.wpub * v.cfg.block)

theorem Variable.offsetOf_lt (v : Variable) (g : Nat) : v.offsetOf g < v.cfg.capacity :=
  mul_block_lt _ (gray2bin_lt _ _)

theorem Variable.offsetOf_bin2gray (v : Variable) {x : Nat} (hx : x < v.cfg.blocks) :
    v.offsetOf (bin2gray x) = x * v.cfg.block := by
  rw [offsetOf, gray2bin_bin2gray hx]

theorem Variable.chain_eq_cdist_iff_ordered (hsized : v.Sized) :
    chainLength v.cfg.capacity v.chain = cdist v.headW v.tail v.cfg.capacity ↔ v.Ordered := by
  obtain ⟨htail, -, -, -, hwpub, -, hhead, hrpub, -, hrlength, -⟩ := hsized
  obtain ⟨l, hl⟩ := exists_reverse_eq_lastStage_cons hrlength (var_stages_pos _)
  have hdecoded : ∀ sync : List Nat, ∀ x ∈ sync.map v.offsetOf, x < v.cfg.capacity := by
    intro sync x hx
    obtain ⟨g, -, rfl⟩ := List.mem_map.1 hx
    exact v.offsetOf_lt g
  have hiff := chain_eq_cdist_iff_inOrder (hdecoded v.rsync) (mul_block_lt _ hrpub) hhead (hdecoded v.wsync)
    (mul_block_lt _ hwpub) htail (last := v.headW) (l := l.map v.offsetOf) (by rw [← List.map_reverse, hl]; rfl)
  simpa only [Variable.chain, ← List.map_reverse] using hiff

theorem Variable.Inv.ordered (hinv : v.Inv) : v.Ordered := by
  obtain ⟨hsized, -, -, ⟨hchain, -⟩, -⟩ := hinv
  exact (chain_eq_cdist_iff_ordered hsized).1 hchain

/-- At a read-domain edge the consumer's view of the tail moves nearer to the tail, or stays (R244). -/
theorem Variable.Inv.tailR_shift_le (hinv : v.Inv) :
    cdist (v.offsetOf (lastStage v.cfg.stages (shiftIn v.cfg.stages v.wgray v.wsync))) v.tail v.cfg.capacity ≤
      cdist v.tailR v.tail v.cfg.capacity := by
  have hordered := hinv.ordered
  have hlength := hinv.wsync_length
  obtain ⟨⟨-, -, -, -, hwpub, -⟩, -, ⟨hgray, -⟩, -⟩ := hinv
  refine lastStage_shiftIn_le (D := fun g => cdist (v.offsetOf g) v.tail v.cfg.capacity) hlength (var_stages_pos _)
    ((List.pairwise_map (f := v.offsetOf)).1 hordered.wsync_sorted) fun x hx => ?_
  simp only [hgray, v.offsetOf_bin2gray hwpub]
  exact hordered.wpub_le _ (List.mem_map_of_mem hx)

/-- At a write-domain edge the producer's view of the head moves nearer to the tail, or stays (R244). -/
theorem Variable.Inv.headW_shift_le (hinv : v.Inv) :
    cdist (v.offsetOf (lastStage v.cfg.stages (shiftIn v.cfg.stages v.rgray v.rsync))) v.tail v.cfg.capacity ≤
      cdist v.headW v.tail v.cfg.capacity := by
  have hordered := hinv.ordered
  have hlength := hinv.rsync_length
  obtain ⟨⟨-, -, -, -, -, -, -, hrpub, -⟩, -, ⟨-, hgray⟩, -⟩ := hinv
  refine lastStage_shiftIn_le (D := fun g => cdist (v.offsetOf g) v.tail v.cfg.capacity) hlength (var_stages_pos _)
    ((List.pairwise_map (f := v.offsetOf)).1 hordered.rsync_sorted) fun x hx => ?_
  simp only [hgray, v.offsetOf_bin2gray hrpub]
  exact hordered.rpub_le _ (List.mem_map_of_mem hx)

theorem Variable.Inv.headW_mem (hinv : v.Inv) : v.headW ∈ v.rsync.map v.offsetOf :=
  List.mem_map_of_mem (f := v.offsetOf) (lastStage_mem hinv.rsync_length (var_stages_pos _))

theorem Variable.Inv.tailR_mem (hinv : v.Inv) : v.tailR ∈ v.wsync.map v.offsetOf :=
  List.mem_map_of_mem (f := v.offsetOf) (lastStage_mem hinv.wsync_length (var_stages_pos _))

theorem Variable.Inv.tailR_le (hinv : v.Inv) :
    cdist v.tailR v.tail v.cfg.capacity ≤ cdist v.head v.tail v.cfg.capacity :=
  hinv.ordered.wsync_le _ hinv.tailR_mem

/-- No stage of the producer's synchroniser is farther from the tail than the last, its view of the head. -/
theorem Variable.Inv.rsync_le_headW (hinv : v.Inv) :
    ∀ x ∈ v.rsync.map v.offsetOf, cdist x v.tail v.cfg.capacity ≤ cdist v.headW v.tail v.cfg.capacity := by
  rintro _ hx
  obtain ⟨g, hg, rfl⟩ := List.mem_map.1 hx
  exact le_lastStage (D := fun g => cdist (v.offsetOf g) v.tail v.cfg.capacity) hinv.rsync_length (var_stages_pos _)
    ((List.pairwise_map (f := v.offsetOf)).1 hinv.ordered.rsync_sorted) hg

/-- No stage of the consumer's synchroniser is farther from the tail than the last, its view of the tail. -/
theorem Variable.Inv.wsync_le_tailR (hinv : v.Inv) :
    ∀ x ∈ v.wsync.map v.offsetOf, cdist x v.tail v.cfg.capacity ≤ cdist v.tailR v.tail v.cfg.capacity := by
  rintro _ hx
  obtain ⟨g, hg, rfl⟩ := List.mem_map.1 hx
  exact le_lastStage (D := fun g => cdist (v.offsetOf g) v.tail v.cfg.capacity) hinv.wsync_length (var_stages_pos _)
    ((List.pairwise_map (f := v.offsetOf)).1 hinv.ordered.wsync_sorted) hg

end

/-! ### Segments (42_variable_packet_fifo.md R176, R183) -/

section
variable {c : VarConfig} {m m' : List Host.Cell} {h d e a : Nat} {x : Visible} {l : List Visible}

theorem block_le_totalOf (c : VarConfig) (len : Nat) : c.block ≤ totalOf c len :=
  Nat.le_of_dvd (by have := le_totalOf c len; omega) (dvd_roundup ..)

/-- The segment that starts at `h`: the bytes it takes up, a skip to offset 0 included, and its message. -/
def segmentAt (c : VarConfig) (m : List Host.Cell) (h : Nat) : Option (Nat × Visible) :=
  match hdrDecode c m h with
  | .ok (.message total len) => some (total, { off := h, total := total, len := len })
  | .ok .sentinel =>
    match hdrDecode c m 0 with
    | .ok (.message total len) => some (c.capacity - h + total, { off := 0, total := total, len := len })
    | _ => none
  | .error _ => none

/-- A segment is a message, or a skip from a sentinel to the message at offset 0. -/
theorem segmentAt_some (hs : segmentAt c m h = some (e, x)) :
    hdrDecode c m x.off = .ok (.message x.total x.len) ∧
      ((x.off = h ∧ e = x.total) ∨
        (x.off = 0 ∧ e = c.capacity - h + x.total ∧ hdrDecode c m h = .ok .sentinel)) := by
  unfold segmentAt at hs
  split at hs
  · next hd => cases hs; exact ⟨hd, .inl ⟨rfl, rfl⟩⟩
  · next hd =>
    split at hs
    · next hd' => cases hs; exact ⟨hd', .inr ⟨rfl, rfl, hd⟩⟩
    · cases hs
  · cases hs

theorem segmentAt_of_message {total len : Nat} (hd : hdrDecode c m h = .ok (.message total len)) :
    segmentAt c m h = some (total, { off := h, total := total, len := len }) := by
  simp only [segmentAt, hd]

theorem segmentAt_of_sentinel {total len : Nat} (hd : hdrDecode c m h = .ok .sentinel)
    (hd' : hdrDecode c m 0 = .ok (.message total len)) :
    segmentAt c m h = some (c.capacity - h + total, { off := 0, total := total, len := len }) := by
  simp only [segmentAt, hd, hd']

theorem block_le_of_segmentAt (hs : segmentAt c m h = some (e, x)) : c.block ≤ e := by
  obtain ⟨hd, hplace⟩ := segmentAt_some hs
  obtain ⟨htotal, -⟩ := hdrDecode_message hd
  have hle := block_le_totalOf c x.len
  omega

/-- The next segment starts where this one's message ends, around the ring. -/
theorem segmentAt_next (hh : h < c.capacity) (hs : segmentAt c m h = some (e, x)) :
    (x.off + x.total) % c.capacity = (h + e) % c.capacity := by
  obtain ⟨-, ⟨hoff, he⟩ | ⟨hoff, he, -⟩⟩ := segmentAt_some hs
  · rw [hoff, he]
  · rw [hoff, he, ← Nat.add_assoc, Nat.add_sub_cancel' hh.le, Nat.add_mod_left, Nat.zero_add]

/-- The bytes of a segment's message are among the bytes the segment takes up. -/
theorem segmentAt_covers (hh : h < c.capacity) (hs : segmentAt c m h = some (e, x)) (hlow : x.off ≤ a)
    (hhigh : a < x.off + x.total) : ∃ k < e, (h + k) % c.capacity = a := by
  obtain ⟨hd, ⟨hoff, he⟩ | ⟨hoff, he, -⟩⟩ := segmentAt_some hs <;> obtain ⟨-, -, hfit⟩ := hdrDecode_message hd
  · exact ⟨a - h, by omega, by rw [Nat.add_sub_cancel' (by omega), Nat.mod_eq_of_lt (by omega)]⟩
  · refine ⟨c.capacity - h + a, by omega, ?_⟩
    rw [← Nat.add_assoc, Nat.add_sub_cancel' hh.le, Nat.add_mod_left, Nat.mod_eq_of_lt (by omega)]

/-- A header that decodes has its eight bytes in storage. -/
theorem hdrDecode_fits {o : Nat} {header : Header} (hd : hdrDecode c m o = .ok header) : o + 8 ≤ c.capacity := by
  unfold hdrDecode at hd
  split at hd
  · cases hd
  · cases hd
  · next h4 => exact (vMemRead_ok.1 h4).1
  · next hd' h4 _ => cases hd

theorem hdrDecode_of_sentinelAt {o : Nat} (hs : sentinelAt c m o = true) : hdrDecode c m o = .ok .sentinel := by
  unfold sentinelAt at hs
  split at hs
  · next hd => exact hd
  · cases hs

theorem payloadOf_congr {p len : Nat}
    (hmem : ∀ k < len, storeRead m' (payloadAddr p k) = storeRead m (payloadAddr p k)) :
    payloadOf m' p len = payloadOf m p len :=
  List.map_congr_left fun k hk => hmem k (List.mem_range.1 hk)

/-- A segment and its payload depend on the bytes the segment takes up. -/
theorem segmentAt_congr (hh : h < c.capacity) (hs : segmentAt c m h = some (e, x))
    (hmem : ∀ k < e, storeRead m' ((h + k) % c.capacity) = storeRead m ((h + k) % c.capacity)) :
    segmentAt c m' h = some (e, x) ∧ payloadOf m' x.off x.len = payloadOf m x.off x.len := by
  obtain ⟨hd, hplace⟩ := segmentAt_some hs
  obtain ⟨htotal, -, hfit⟩ := hdrDecode_message hd
  have hlen := le_totalOf c x.len
  have hbytes : ∀ a, x.off ≤ a → a < x.off + x.total → storeRead m' a = storeRead m a := by
    intro a hlow hhigh
    obtain ⟨k, hk, rfl⟩ := segmentAt_covers hh hs hlow hhigh
    exact hmem k hk
  have hheader : hdrDecode c m' x.off = .ok (.message x.total x.len) :=
    (hdrDecode_congr fun a hlow hhigh => hbytes a hlow (by omega)).trans hd
  refine ⟨?_, payloadOf_congr fun k hk => hbytes _ (by unfold payloadAddr; omega) (payloadAddr_lt_of_message hd hk).1⟩
  obtain ⟨off, total, len⟩ := x
  obtain ⟨rfl, rfl⟩ | ⟨rfl, rfl, hsentinel⟩ := hplace
  · exact segmentAt_of_message hheader
  · refine segmentAt_of_sentinel ((hdrDecode_congr fun a hlow hhigh => ?_).trans hsentinel) hheader
    have hfits := hdrDecode_fits hsentinel
    have hread := hmem (a - h) (by omega)
    rwa [Nat.add_sub_cancel' hlow, Nat.mod_eq_of_lt (by omega)] at hread

/-- The `d` bytes from `h` on are an exact sequence of segments with the messages `l`. -/
inductive IsSegments (c : VarConfig) (m : List Host.Cell) : Nat → Nat → List Visible → Prop where
  | nil (h : Nat) : IsSegments c m h 0 []
  | cons {h d e : Nat} {x : Visible} {l : List Visible} (hs : segmentAt c m h = some (e, x)) (he : e ≤ d)
      (hl : IsSegments c m ((h + e) % c.capacity) (d - e) l) : IsSegments c m h d (x :: l)

theorem isSegments_cons (hl : IsSegments c m h d (x :: l)) :
    ∃ e, segmentAt c m h = some (e, x) ∧ e ≤ d ∧ IsSegments c m ((h + e) % c.capacity) (d - e) l := by
  cases hl with
  | cons hs he hl => exact ⟨_, hs, he, hl⟩

/-- One step of reading segments off storage. -/
theorem segments_succ (c : VarConfig) (m : List Host.Cell) (fuel h d : Nat) :
    segments c m (fuel + 1) h (d + 1) = (segmentAt c m h).bind fun s =>
      if d + 1 < s.1 then none
      else (segments c m fuel ((s.2.off + s.2.total) % c.capacity) (d + 1 - s.1)).map (s.2 :: ·) := by
  rw [segments, segmentAt]
  rcases hdrDecode c m h with err | _ | ⟨total, len⟩
  · rfl
  · rcases hdrDecode c m 0 with err | _ | ⟨total, len⟩
    · rfl
    · rfl
    · simp
  · rfl

theorem isSegments_of_segments {fuel : Nat} (hh : h < c.capacity) (hs : segments c m fuel h d = some l) :
    IsSegments c m h d l := by
  induction fuel generalizing h d l with
  | zero =>
    cases d with
    | zero => cases hs; exact .nil h
    | succ d => cases hs
  | succ fuel ih =>
    cases d with
    | zero => cases hs; exact .nil h
    | succ d =>
      rw [segments_succ, Option.bind_eq_some_iff] at hs
      obtain ⟨⟨e, x⟩, hx, hs⟩ := hs
      split at hs
      · cases hs
      · next hfit =>
        obtain ⟨rest, hrest, rfl⟩ := Option.map_eq_some_iff.1 hs
        rw [segmentAt_next hh hx] at hrest
        exact .cons hx (Nat.not_lt.1 hfit) (ih (Nat.mod_lt _ (capacity_pos c)) hrest)

/-- A segment takes up a block at least, so a block's worth of fuel for each block of the region is enough. -/
theorem IsSegments.segments_eq (hl : IsSegments c m h d l) {fuel : Nat} (hh : h < c.capacity)
    (hfuel : d ≤ fuel * c.block) : segments c m fuel h d = some l := by
  induction hl generalizing fuel with
  | nil h => cases fuel <;> rfl
  | @cons h d e x l hx he hl ih =>
    have hblock := block_le_of_segmentAt hx
    have hpos := block_pos c
    obtain ⟨d, rfl⟩ : ∃ k, d = k + 1 := ⟨d - 1, by omega⟩
    obtain _ | fuel := fuel
    · omega
    · rw [Nat.succ_mul] at hfuel
      rw [segments_succ, hx, Option.bind_some, if_neg (Nat.not_lt.2 he), segmentAt_next hh hx,
        ih (Nat.mod_lt _ (capacity_pos c)) (by omega), Option.map_some]

/-- A segment behind an exact sequence makes a longer one. -/
theorem IsSegments.append (hl : IsSegments c m h d l) (hh : h < c.capacity)
    (hs : segmentAt c m ((h + d) % c.capacity) = some (e, x)) : IsSegments c m h (d + e) (l ++ [x]) := by
  induction hl with
  | nil h =>
    rw [Nat.add_zero, Nat.mod_eq_of_lt hh] at hs
    exact .cons hs (by omega) (by rw [Nat.zero_add, Nat.sub_self]; exact .nil _)
  | @cons h d e' y l hy he hl ih =>
    refine .cons hy (by omega) ?_
    rw [show d + e - e' = d - e' + e by omega]
    refine ih (Nat.mod_lt _ (capacity_pos c)) ?_
    rwa [Nat.mod_add_mod, Nat.add_assoc, Nat.add_sub_cancel' he]

/-- A sequence of segments and its payloads depend on the bytes of its region. -/
theorem IsSegments.congr (hl : IsSegments c m h d l) (hh : h < c.capacity)
    (hmem : ∀ k < d, storeRead m' ((h + k) % c.capacity) = storeRead m ((h + k) % c.capacity)) :
    IsSegments c m' h d l ∧ ∀ x ∈ l, payloadOf m' x.off x.len = payloadOf m x.off x.len := by
  induction hl with
  | nil h => exact ⟨.nil h, nofun⟩
  | @cons h d e x l hx he hl ih =>
    obtain ⟨hx', hpayload⟩ := segmentAt_congr hh hx fun k hk => hmem k (by omega)
    obtain ⟨hl', hpayloads⟩ := ih (Nat.mod_lt _ (capacity_pos c)) fun k hk => by
      rw [Nat.mod_add_mod, Nat.add_assoc]
      exact hmem (e + k) (by omega)
    exact ⟨.cons hx' he hl', List.forall_mem_cons.2 ⟨hpayload, hpayloads⟩⟩

/-- `VFrontView` shows the first segment's message once the whole segment is published. -/
theorem vFrontViewAt_of_segmentAt (hs : segmentAt c m h = some (e, x)) (tailR : Nat) :
    vFrontViewAt c m h tailR = .ok (if cdist h tailR c.capacity < e then none else some x) := by
  obtain ⟨hd, hplace⟩ := segmentAt_some hs
  obtain ⟨htotal, -⟩ := hdrDecode_message hd
  have hpos := block_pos c
  have hle := block_le_totalOf c x.len
  simp only [vFrontViewAt]
  by_cases hzero : cdist h tailR c.capacity = 0
  · rw [if_pos hzero, if_pos (by omega)]
  · rw [if_neg hzero]
    obtain ⟨off, total, len⟩ := x
    obtain ⟨rfl, rfl⟩ | ⟨rfl, rfl, hsentinel⟩ := hplace
    · simp only [hd, visibleIf, Nat.zero_add]
    · simp only [hd, hsentinel, visibleIf]
      split
      · rw [if_pos (by simp only at htotal hle; omega)]
      · rfl

end

/-! ### The unread region (42_variable_packet_fifo.md R176, R195) -/

section
variable {v u : Variable} {e : Nat} {x : Visible} {l : List Visible}

theorem Variable.unread_eq_some_iff (hhead : v.head < v.cfg.capacity) :
    v.unread = some l ↔ IsSegments v.cfg v.mem v.head (cdist v.head v.tail v.cfg.capacity) l :=
  ⟨isSegments_of_segments hhead, fun hl => hl.segments_eq hhead
    ((cdist_lt (capacity_pos _)).le.trans_eq (blocks_mul_block _).symm)⟩

theorem Variable.queue_eq (hunread : v.unread = some l) : v.queue = l.map fun x => payloadOf v.mem x.off x.len := by
  rw [queue, hunread, Option.getD_some]

/-- The unread messages and their payloads depend on the two pointers and the bytes between them. -/
theorem Variable.unread_congr (hhead : v.head < v.cfg.capacity) (hunread : v.unread = some l) (hcfg : u.cfg = v.cfg)
    (hhead' : u.head = v.head) (htail' : u.tail = v.tail)
    (hmem : ∀ k < cdist v.head v.tail v.cfg.capacity,
      storeRead u.mem ((v.head + k) % v.cfg.capacity) = storeRead v.mem ((v.head + k) % v.cfg.capacity)) :
    u.unread = some l ∧ u.queue = v.queue := by
  obtain ⟨hl, hpayloads⟩ := ((unread_eq_some_iff hhead).1 hunread).congr hhead hmem
  have hunread' : u.unread = some l := by
    refine (unread_eq_some_iff (by rwa [hcfg, hhead'])).2 ?_
    rwa [hcfg, hhead', htail']
  refine ⟨hunread', ?_⟩
  rw [queue_eq hunread, queue_eq hunread']
  exact List.map_congr_left hpayloads

/-- Moving the tail past a segment appends its message. -/
theorem Variable.unread_of_tail_moved (hhead : v.head < v.cfg.capacity) (htail : v.tail < v.cfg.capacity)
    (hunread : v.unread = some l) (hs : segmentAt v.cfg v.mem v.tail = some (e, x))
    (hroom : cdist v.head v.tail v.cfg.capacity + e < v.cfg.capacity) (hcfg : u.cfg = v.cfg)
    (hhead' : u.head = v.head) (htail' : u.tail = (v.tail + e) % v.cfg.capacity) (hmem : u.mem = v.mem) :
    u.unread = some (l ++ [x]) ∧ u.queue = v.queue ++ [payloadOf v.mem x.off x.len] := by
  have hunread' : u.unread = some (l ++ [x]) := by
    refine (unread_eq_some_iff (by rwa [hcfg, hhead'])).2 ?_
    rw [hcfg, hhead', htail', hmem, cdist_add_right hroom]
    exact ((unread_eq_some_iff hhead).1 hunread).append hhead (by rwa [add_cdist_mod hhead htail])
  refine ⟨hunread', ?_⟩
  rw [queue_eq hunread, queue_eq hunread', hmem, List.map_append, List.map_singleton]

/-- Moving the head past the first segment removes its message. -/
theorem Variable.unread_of_head_moved (hhead : v.head < v.cfg.capacity) (htail : v.tail < v.cfg.capacity)
    (hunread : v.unread = some (x :: l)) (hcfg : u.cfg = v.cfg)
    (hhead' : u.head = (x.off + x.total) % v.cfg.capacity) (htail' : u.tail = v.tail) (hmem : u.mem = v.mem) :
    u.unread = some l ∧ v.queue = payloadOf v.mem x.off x.len :: u.queue := by
  obtain ⟨e, hs, he, hl⟩ := isSegments_cons ((unread_eq_some_iff hhead).1 hunread)
  rw [segmentAt_next hhead hs] at hhead'
  have hlt : (v.head + e) % v.cfg.capacity < v.cfg.capacity := Nat.mod_lt _ (capacity_pos _)
  have hunread' : u.unread = some l := by
    refine (unread_eq_some_iff (by rwa [hcfg, hhead'])).2 ?_
    rwa [hcfg, hhead', htail', hmem, cdist_add_left hhead htail he]
  refine ⟨hunread', ?_⟩
  rw [queue_eq hunread, queue_eq hunread', hmem, List.map_cons]

end

/-! ### The view of the oldest message (42_variable_packet_fifo.md R183, R194) -/

section
variable {v : Variable} {x : Visible}

/-- What is published beyond the head is unread. -/
theorem Variable.Inv.cdist_head_tailR (hinv : v.Inv) :
    cdist v.head v.tailR v.cfg.capacity + cdist v.tailR v.tail v.cfg.capacity =
      cdist v.head v.tail v.cfg.capacity :=
  cdist_add_cdist hinv.head_lt v.tailR_lt hinv.tail_lt hinv.tailR_le

/-- `VFrontView` never raises a fault: it shows nothing or the first unread message (R173, R183). -/
theorem Variable.Inv.vFrontView_cases (hinv : v.Inv) :
    vFrontView v = .ok none ∨
      ∃ e x l, vFrontView v = .ok (some x) ∧ v.unread = some (x :: l) ∧
        segmentAt v.cfg v.mem v.head = some (e, x) ∧ e ≤ cdist v.head v.tailR v.cfg.capacity := by
  have hpublished := hinv.cdist_head_tailR
  obtain ⟨l, hl⟩ := hinv.exists_unread
  have hsegments := (unread_eq_some_iff hinv.head_lt).1 hl
  generalize hd : cdist v.head v.tail v.cfg.capacity = d at hsegments
  cases hsegments with
  | nil => exact .inl (if_pos (by omega))
  | @cons _ _ e x rest hs he hrest =>
    have hview := vFrontViewAt_of_segmentAt hs v.tailR
    by_cases hextent : cdist v.head v.tailR v.cfg.capacity < e
    · rw [if_pos hextent] at hview
      exact .inl hview
    · rw [if_neg hextent] at hview
      exact .inr ⟨e, x, rest, hview, hl, hs, Nat.not_lt.1 hextent⟩

/-- What is shown is the first unread message, and its whole segment is published. -/
theorem Variable.Inv.shown (hinv : v.Inv) (hshown : vFrontView v = .ok (some x)) :
    ∃ e l, v.unread = some (x :: l) ∧ segmentAt v.cfg v.mem v.head = some (e, x) ∧
      e ≤ cdist v.head v.tailR v.cfg.capacity := by
  obtain hnone | ⟨e, y, l, hview, hunread, hs, he⟩ := hinv.vFrontView_cases
  · rw [hshown] at hnone
    cases hnone
  · rw [hshown] at hview
    cases hview
    exact ⟨e, l, hunread, hs, he⟩

theorem Variable.Inv.head?_queue (hinv : v.Inv) (hshown : vFrontView v = .ok (some x)) :
    v.queue.head? = some (payloadOf v.mem x.off x.len) := by
  obtain ⟨e, l, hunread, -⟩ := hinv.shown hshown
  rw [Variable.queue_eq hunread, List.map_cons, List.head?_cons]

/-- A held reservation is a segment at the tail (R186, 43_gray_pointer_sync.md R248). -/
theorem Variable.Inv.segmentAt_tail (hinv : v.Inv) (hresv : v.resv = true) :
    segmentAt v.cfg v.mem v.tail =
      some (v.resvExtent, { off := v.resvOff, total := v.resvTotal, len := v.resvLen }) := by
  have hd := hinv.resv_header hresv
  obtain ⟨-, hplace, -⟩ := hinv.resvOk hresv
  unfold resvExtent
  by_cases hoff : v.resvOff = v.tail
  · rw [if_pos hoff, hoff]
    exact segmentAt_of_message (hoff ▸ hd)
  · obtain ⟨hzero, hsentinel⟩ := hplace.resolve_left hoff
    rw [if_neg hoff, hzero]
    exact segmentAt_of_sentinel (hdrDecode_of_sentinelAt hsentinel) (hzero ▸ hd)

end

/-! ### What an edge of the variable FIFO can do -/

section
variable {s t : State} {w : Nat} {i : Instr} {off len : Nat} {b : Byte}

/-- A write-domain edge leaves a fault recorded and nothing else, or takes what its part answers. -/
theorem varWEdge_faulted_or_taken {p : Except Stop (Variable × VpResp)} (h : varWEdge s w p = .next t) :
    (t.var.fault ≠ none ∧ t.resp = .none ∧ ∃ record, t.var = { s.var with fault := record }) ∨
      (s.var.fault = none ∧ ∃ v r, p = .ok (v, r) ∧ t.var = v.wTick s.var ∧ t.resp = .vp r) := by
  obtain ⟨hf, rfl⟩ | ⟨-, code, -, rfl⟩ | ⟨hf, v, r, hok, rfl⟩ := varWEdge_next.1 h
  · exact .inl ⟨hf, rfl, _, rfl⟩
  · exact .inl ⟨nofun, rfl, _, rfl⟩
  · exact .inr ⟨hf, v, r, hok, rfl, rfl⟩

/-- A read-domain edge leaves a fault recorded and nothing else, or takes what its part answers. -/
theorem varREdge_faulted_or_taken {p : Except Stop (Variable × VcResp)} (h : varREdge s w p = .next t) :
    (t.var.fault ≠ none ∧ t.resp = .none ∧ ∃ record, t.var = { s.var with fault := record }) ∨
      (s.var.fault = none ∧ ∃ v r, p = .ok (v, r) ∧ t.var = v.rTick s.var ∧ t.resp = .vc r) := by
  obtain ⟨hf, rfl⟩ | ⟨-, code, -, rfl⟩ | ⟨hf, v, r, hok, rfl⟩ := varREdge_next.1 h
  · exact .inl ⟨hf, rfl, _, rfl⟩
  · exact .inl ⟨nofun, rfl, _, rfl⟩
  · exact .inr ⟨hf, v, r, hok, rfl, rfl⟩

/-- A read-domain edge that leaves no fault recorded was taken. -/
theorem varREdge_unfaulted {p : Except Stop (Variable × VcResp)} (h : varREdge s w p = .next t)
    (hfault : t.var.fault = none) : ∃ v r, p = .ok (v, r) ∧ t.var = v.rTick s.var := by
  obtain ⟨hf, -⟩ | ⟨-, v, r, hok, ht, -⟩ := varREdge_faulted_or_taken h
  · exact absurd hfault hf
  · exact ⟨v, r, hok, ht⟩

/-- A read-domain edge that drives a response was taken, and its part gave the response. -/
theorem varREdge_resp_vc {p : Except Stop (Variable × VcResp)} {r : VcResp} (h : varREdge s w p = .next t)
    (hr : t.resp = .vc r) : ∃ v, p = .ok (v, r) := by
  obtain ⟨-, hnone, -⟩ | ⟨-, v, q, hok, -, hq⟩ := varREdge_faulted_or_taken h
  · rw [hr] at hnone
    cases hnone
  · rw [hr] at hq
    cases hq
    exact ⟨v, hok⟩

/-- An edge that leaves a fault recorded changes nothing of the variable FIFO but the record. -/
theorem exec_var_of_faulted (h : exec i s = .next t) (hfault : t.var.fault ≠ none) :
    ∃ record, t.var = { s.var with fault := record } := by
  cases hp : i.port with
  | fp => exact ⟨_, exec_fixed_keeps_var (by rw [hp]; rfl) h⟩
  | fc => exact ⟨_, exec_fixed_keeps_var (by rw [hp]; rfl) h⟩
  | vp =>
    obtain ⟨part, hpart, hexec⟩ := exec_vp hp
    obtain ⟨-, -, hrecord⟩ | ⟨hf, v, r, hok, ht, -⟩ := varWEdge_faulted_or_taken (hexec s ▸ h)
    · exact hrecord
    · obtain ⟨tail, resv, off, total, len, mem, rfl⟩ := hpart _ _ _ hok
      rw [ht] at hfault
      exact absurd hf hfault
  | vc =>
    obtain ⟨part, hpart, hexec⟩ := exec_vc hp
    obtain ⟨-, -, hrecord⟩ | ⟨hf, v, r, hok, ht, -⟩ := varREdge_faulted_or_taken (hexec s ▸ h)
    · exact hrecord
    · obtain ⟨head, rfl⟩ := hpart _ _ _ hok
      rw [ht] at hfault
      exact absurd hf hfault

/-! ### Only VP.PUSH moves the tail and only VC.POP the head -/

theorem varWEdge_keeps_tail {p : Except Stop (Variable × VpResp)}
    (hpart : ∀ v r, p = .ok (v, r) → v.tail = s.var.tail) (h : varWEdge s w p = .next t) :
    t.var.tail = s.var.tail := by
  obtain ⟨-, -, record, ht⟩ | ⟨-, v, r, hok, ht, -⟩ := varWEdge_faulted_or_taken h
  · rw [ht]
  · rw [ht]
    exact hpart v r hok

theorem varREdge_keeps_head {p : Except Stop (Variable × VcResp)}
    (hpart : ∀ v r, p = .ok (v, r) → v = s.var) (h : varREdge s w p = .next t) :
    t.var.head = s.var.head := by
  obtain ⟨-, -, record, ht⟩ | ⟨-, v, r, hok, ht, -⟩ := varREdge_faulted_or_taken h
  · rw [ht]
  · rw [ht, hpart v r hok, Variable.rTick_head]

theorem exec_keeps_var_tail (hi : ∀ a b, i ≠ .vpPush a b) (h : exec i s = .next t) :
    t.var.tail = s.var.tail := by
  cases i with
  | vpNop a b =>
    refine varWEdge_keeps_tail (w := vpWord s.var.cfg 0 a b) (p := vpNopPart s.var) (fun v r hok => ?_) h
    rw [(vpNopPart_ok.1 hok).1]
  | vpAlloc len b =>
    refine varWEdge_keeps_tail (fun v r hok => ?_) h
    obtain ⟨-, rfl, -⟩ | ⟨p, m, -, -, rfl, -⟩ := vpAllocPart_ok.1 hok <;> rfl
  | vpWrite off b =>
    refine varWEdge_keeps_tail (fun v r hok => ?_) h
    obtain ⟨-, -, -, rfl, -⟩ := vpWritePart_ok.1 hok
    rfl
  | vpPush a b => exact absurd rfl (hi a b)
  | vcNop | vcFront | vcRead | vcPop => exact (exec_read_sameWriteSide rfl h).2.1
  | _ => rw [exec_fixed_keeps_var rfl h]

theorem exec_keeps_var_head (hi : ∀ a, i ≠ .vcPop a) (h : exec i s = .next t) : t.var.head = s.var.head := by
  cases i with
  | vcNop a =>
    exact varREdge_keeps_head (w := vcWord 0 a) (p := vcNopPart s.var) (fun v r hok => (vcNopPart_ok.1 hok).1) h
  | vcFront a => exact varREdge_keeps_head (fun v r hok => (vcFrontPart_ok.1 hok).1) h
  | vcRead off => exact varREdge_keeps_head (fun v r hok => (vcReadPart_ok.1 hok).1) h
  | vcPop a => exact absurd rfl (hi a)
  | vpNop | vpAlloc | vpWrite | vpPush => exact (exec_write_sameReadSide rfl h).2.1
  | _ => rw [exec_fixed_keeps_var rfl h]

/-! ### The commands on the queue of messages (42_variable_packet_fifo.md R195) -/

/-- The reserved message fits behind the unread ones. -/
theorem Variable.Inv.resv_fits {v : Variable} (hinv : v.Inv) (hresv : v.resv = true) :
    cdist v.head v.tail v.cfg.capacity + v.resvExtent < v.cfg.capacity := by
  have hle := hinv.cdist_head_tail_le
  have hblock := block_pos v.cfg
  obtain ⟨-, -, hextent⟩ := hinv.resvOk hresv
  omega

theorem exec_vpPush_var_queue {a : Nat} (hinv : s.var.Inv) (h : exec (.vpPush a b) s = .next t)
    (hfault : s.var.fault = none) (hresv : s.var.resv = true) :
    t.var.queue = s.var.queue ++ [payloadOf s.var.mem s.var.resvOff s.var.resvLen] := by
  obtain ⟨l, hl⟩ := hinv.exists_unread
  have hs := hinv.segmentAt_tail hresv
  have hnext := segmentAt_next hinv.tail_lt hs
  have ht := Host.Outcome.next.inj (h.symm.trans
    (varWEdge_next.2 (.inr (.inr ⟨hfault, _, _, vpPushPart_ok.2 ⟨hresv, rfl, rfl⟩, rfl⟩))))
  exact (Variable.unread_of_tail_moved hinv.head_lt hinv.tail_lt hl hs (hinv.resv_fits hresv) (by rw [ht]; rfl)
    (by rw [ht]; rfl) (by rw [ht]; exact hnext) (by rw [ht]; rfl)).2

theorem exec_vcPop_var_queue {a : Nat} (hinv : s.var.Inv) (h : exec (.vcPop a) s = .next t)
    (hfault : t.var.fault = none) : ∃ x, s.var.queue = x :: t.var.queue := by
  obtain ⟨u, r, hok, ht⟩ := varREdge_unfaulted h hfault
  obtain ⟨x, hshown, rfl, -⟩ := vcPopPart_ok.1 hok
  obtain ⟨e, l, hunread, -⟩ := hinv.shown hshown
  exact ⟨_, (Variable.unread_of_head_moved hinv.head_lt hinv.tail_lt hunread (by rw [ht]; rfl) (by rw [ht]; rfl)
    (by rw [ht]; rfl) (by rw [ht]; rfl)).2⟩

theorem exec_keeps_var_queue (hinv : s.var.Inv) (hpush : ∀ a b, i ≠ .vpPush a b) (hpop : ∀ a, i ≠ .vcPop a)
    (h : exec i s = .next t) : t.var.queue = s.var.queue := by
  obtain ⟨l, hl⟩ := hinv.exists_unread
  exact (Variable.unread_congr hinv.head_lt hl (exec_keeps_cfg h).2 (exec_keeps_var_head hpop h)
    (exec_keeps_var_tail hpush h) fun k hk => exec_storeRead_var hinv (hinv.not_seenFree_of_unread hk) h).2

theorem exec_faulted_keeps_var_queue (h : exec i s = .next t) (hfault : t.var.fault ≠ none) :
    t.var.queue = s.var.queue := by
  obtain ⟨record, ht⟩ := exec_var_of_faulted h hfault
  rw [ht]
  rfl

theorem vcShown_injective {x y : Visible} (h : vcShown x = vcShown y) : x = y := by
  obtain ⟨off, total, len⟩ := x
  obtain ⟨off', total', len'⟩ := y
  cases h
  rfl

/-- VC.FRONT shows what `VFrontView` gives (R190). -/
theorem exec_vcFront_shown {a : Nat} {x : Visible} (h : exec (.vcFront a) s = .next t)
    (hr : t.resp = .vc (vcShown x)) : vFrontView s.var = .ok (some x) := by
  obtain ⟨v, hok⟩ := varREdge_resp_vc h hr
  obtain ⟨-, ⟨-, hnot⟩ | ⟨y, hview, heq⟩⟩ := vcFrontPart_ok.1 hok
  · cases hnot
  · rw [hview, vcShown_injective heq]

/-- VC.READ returns a byte of the message `VFrontView` gives (R191). -/
theorem exec_vcRead_byte (h : exec (.vcRead off) s = .next t) (hr : t.resp = .vc (vcByte b)) :
    ∃ x, vFrontView s.var = .ok (some x) ∧ (payloadOf s.var.mem x.off x.len)[off]? = some (some b) := by
  obtain ⟨v, hok⟩ := varREdge_resp_vc h hr
  obtain ⟨-, x, b', hview, hoff, -, hbyte, heq⟩ := vcReadPart_ok.1 hok
  cases heq
  refine ⟨x, hview, ?_⟩
  rw [payloadOf, List.getElem?_map, List.getElem?_range hoff, Option.map_some, hbyte]

/-! ### What is shown stays (42_variable_packet_fifo.md R194; 41_fixed_slot_fifo.md R138) -/

/-- A command leaves the fixed consumer's view of the tail, or moves it by one shift of the synchroniser. -/
theorem exec_fixed_tailR (h : exec i s = .next t) :
    t.fixed.tailR = s.fixed.tailR ∨ t.fixed.tailR = gray2bin s.fixed.cfg.fAw
      (lastStage s.fixed.cfg.stages (shiftIn s.fixed.cfg.stages s.fixed.wgray s.fixed.wsync)) := by
  by_cases hp : i.port = .fc
  · obtain ⟨part, hpart, hexec⟩ := exec_fc hp
    obtain ⟨-, rfl⟩ | ⟨-, code, -, rfl⟩ | ⟨-, f, r, hok, rfl⟩ := fixedREdge_next.1 (hexec s s.var.cfg ▸ h)
    · exact .inl rfl
    · exact .inl rfl
    · obtain ⟨head, rfl⟩ := hpart _ _ _ hok
      exact .inr rfl
  · left
    cases hk : i.port.kind with
    | fixedSlot =>
      have hport := (Port.fixedSlot_cases hk).resolve_right hp
      obtain ⟨⟨-, -, -, hwsync⟩, -⟩ := exec_write_sameReadSide (by rw [hport]; rfl) h
      rw [Fixed.tailR, Fixed.tailR, hwsync, (exec_keeps_cfg h).1]
    | variableLength => rw [exec_var_keeps_fixed hk h]

/-- A command leaves the variable consumer's view of the tail, or moves it by one shift of the synchroniser. -/
theorem exec_var_tailR (h : exec i s = .next t) :
    t.var.tailR = s.var.tailR ∨ t.var.tailR =
      s.var.offsetOf (lastStage s.var.cfg.stages (shiftIn s.var.cfg.stages s.var.wgray s.var.wsync)) := by
  by_cases hp : i.port = .vc
  · obtain ⟨part, hpart, hexec⟩ := exec_vc hp
    obtain ⟨-, -, record, ht⟩ | ⟨-, v, r, hok, ht, -⟩ := varREdge_faulted_or_taken (hexec s ▸ h)
    · rw [ht]
      exact .inl rfl
    · obtain ⟨head, rfl⟩ := hpart _ _ _ hok
      rw [ht]
      exact .inr rfl
  · left
    cases hk : i.port.kind with
    | fixedSlot => rw [exec_fixed_keeps_var hk h]
    | variableLength =>
      have hport := (Port.variableLength_cases hk).resolve_right hp
      obtain ⟨-, ⟨-, -, -, hwsync⟩⟩ := exec_write_sameReadSide (by rw [hport]; rfl) h
      rw [Variable.tailR, Variable.tailR, hwsync, (exec_keeps_cfg h).2]

/-- Of two positions the one nearer to the tail is farther from the head. -/
theorem cdist_le_of_nearer {head x y t m : Nat} (hh : head < m) (hx : x < m) (hy : y < m) (ht : t < m)
    (hyx : cdist y t m ≤ cdist x t m) (hxh : cdist x t m ≤ cdist head t m) : cdist head x m ≤ cdist head y m := by
  have hx := cdist_add_cdist hh hx ht hxh
  have hy := cdist_add_cdist hh hy ht (hyx.trans hxh)
  omega

/-- What the fixed consumer sees beyond the head a command does not take back. -/
theorem exec_fixed_visible_grows (hinv : s.fixed.Inv) (h : exec i s = .next t) :
    cdist s.fixed.head s.fixed.tailR s.fixed.cfg.slots ≤ cdist s.fixed.head t.fixed.tailR s.fixed.cfg.slots := by
  have hshift := hinv.tailR_shift_le
  have hle := hinv.tailR_le
  obtain ⟨⟨htail, -, -, hhead, -⟩, -⟩ := hinv
  obtain heq | heq := exec_fixed_tailR h
  · rw [heq]
  · rw [heq]
    exact cdist_le_of_nearer hhead s.fixed.tailR_lt (gray2bin_lt _ _) htail hshift hle

/-- What the variable consumer sees beyond the head a command does not take back. -/
theorem exec_var_visible_grows (hinv : s.var.Inv) (h : exec i s = .next t) :
    cdist s.var.head s.var.tailR s.var.cfg.capacity ≤ cdist s.var.head t.var.tailR s.var.cfg.capacity := by
  obtain heq | heq := exec_var_tailR h
  · rw [heq]
  · rw [heq]
    exact cdist_le_of_nearer hinv.head_lt s.var.tailR_lt (s.var.offsetOf_lt _) hinv.tail_lt hinv.tailR_shift_le
      hinv.tailR_le

theorem exec_keeps_shown_slot (hinv : s.fixed.Inv) (hshown : s.fixed.head ≠ s.fixed.tailR) (hpop : i ≠ .fcPop)
    (h : exec i s = .next t) :
    t.fixed.head = s.fixed.head ∧ t.fixed.head ≠ t.fixed.tailR ∧
      storeRead t.fixed.mem t.fixed.head = storeRead s.fixed.mem s.fixed.head := by
  have hhead := exec_keeps_fixed_head hpop h
  have hgrows := exec_fixed_visible_grows hinv h
  have hne := hinv.head_ne_tail hshown
  obtain ⟨⟨-, -, -, hlt, -⟩, -⟩ := hinv
  refine ⟨hhead, fun heq => hshown ?_, by rw [hhead, exec_storeRead_fixed hne h]⟩
  rw [← heq, hhead, cdist_self hlt] at hgrows
  exact (cdist_eq_zero hlt s.fixed.tailR_lt).1 (Nat.le_zero.1 hgrows)

theorem exec_keeps_shown_message {x : Visible} (hinv : s.var.Inv) (hshown : vFrontView s.var = .ok (some x))
    (hpop : ∀ a, i ≠ .vcPop a) (h : exec i s = .next t) :
    vFrontView t.var = .ok (some x) ∧ payloadOf t.var.mem x.off x.len = payloadOf s.var.mem x.off x.len := by
  have hgrows := exec_var_visible_grows hinv h
  have hpublished := hinv.cdist_head_tailR
  obtain ⟨e, l, -, hs, he⟩ := hinv.shown hshown
  obtain ⟨hs', hpayload⟩ := segmentAt_congr hinv.head_lt hs fun k hk =>
    exec_storeRead_var hinv (hinv.not_seenFree_of_unread (by omega)) h
  refine ⟨?_, hpayload⟩
  rw [vFrontView, (exec_keeps_cfg h).2, exec_keeps_var_head hpop h, vFrontViewAt_of_segmentAt hs', if_neg (by omega)]

/-! ### No command meets an invalid header (42_variable_packet_fifo.md R173) -/

/-- Under the invariant VP.ALLOC's part answers (R186). -/
theorem Variable.Inv.vpAllocPart_answers {v : Variable} (hinv : v.Inv) (len : Nat) :
    ∃ a, vpAllocPart v len = .ok a := by
  have htail := hinv.tail_header_fits
  cases hp : vPlace v len with
  | none => exact ⟨_, vpAllocPart_ok.2 (.inl ⟨hp, rfl, rfl⟩)⟩
  | some p =>
    obtain ⟨htotal, hcases⟩ := vPlaceAt_some hp
    obtain ⟨m, hm⟩ := allocMem_exists (len := len) htail (show p.off + 8 ≤ v.cfg.capacity by omega)
    exact ⟨_, vpAllocPart_ok.2 (.inr ⟨p, m, hp, hm, rfl, rfl⟩)⟩

theorem writeCell_ne_record {α : Type} (size : Nat) (m : Store α) (a : Nat) (v : α) (code : FaultCode) :
    writeCell size m a v ≠ .error (.record code) := by
  unfold writeCell
  split <;> nofun

theorem readCell_ne_record {α : Type} (size : Nat) (m : Store α) (a : Nat) (code : FaultCode) :
    readCell size m a ≠ .error (.record code) := by
  unfold readCell
  split <;> nofun

theorem vpWritePart_ne_headerInvalid (v : Variable) (off : Nat) (b : Byte) :
    vpWritePart v off b ≠ .error (.record .vHeaderInvalid) := by
  unfold vpWritePart
  split
  · nofun
  · split
    · nofun
    · split
      · next hcell =>
        rintro ⟨⟩
        exact writeCell_ne_record _ _ _ _ _ hcell
      · nofun

theorem vpPushPart_ne_headerInvalid (v : Variable) : vpPushPart v ≠ .error (.record .vHeaderInvalid) := by
  unfold vpPushPart
  split <;> nofun

theorem Variable.Inv.vcFrontPart_ne_headerInvalid {v : Variable} (hinv : v.Inv) :
    vcFrontPart v ≠ .error (.record .vHeaderInvalid) := by
  obtain hview | ⟨e, x, l, hview, -⟩ := hinv.vFrontView_cases <;> rw [vcFrontPart, hview] <;> nofun

theorem Variable.Inv.vcReadPart_ne_headerInvalid {v : Variable} (hinv : v.Inv) (off : Nat) :
    vcReadPart v off ≠ .error (.record .vHeaderInvalid) := by
  obtain hview | ⟨e, x, l, hview, -⟩ := hinv.vFrontView_cases
  · rw [vcReadPart, hview]
    nofun
  · rw [vcReadPart, hview]
    simp only
    split
    · nofun
    · split
      · next hcell =>
        rintro ⟨⟩
        exact readCell_ne_record _ _ _ _ hcell
      · nofun
      · nofun

theorem Variable.Inv.vcPopPart_ne_headerInvalid {v : Variable} (hinv : v.Inv) :
    vcPopPart v ≠ .error (.record .vHeaderInvalid) := by
  obtain hview | ⟨e, x, l, hview, -⟩ := hinv.vFrontView_cases <;> rw [vcPopPart, hview] <;> nofun

theorem varWEdge_ne_headerInvalid {part : Variable → Except Stop (Variable × VpResp)} (hpart : IsVpPart part)
    (hne : part s.var ≠ .error (.record .vHeaderInvalid)) (hfault : s.var.fault = none)
    (h : varWEdge s w (part s.var) = .next t) {r : FaultRecord} (hr : t.var.fault = some r) :
    r.code ≠ .vHeaderInvalid := by
  obtain ⟨hf, -⟩ | ⟨-, code, hp, rfl⟩ | ⟨-, v, q, hok, rfl⟩ := varWEdge_next.1 h
  · exact absurd hfault hf
  · cases hr
    rintro rfl
    exact hne hp
  · obtain ⟨tail, resv, off, total, len, mem, rfl⟩ := hpart _ _ _ hok
    exact absurd (hfault.symm.trans hr) nofun

theorem varREdge_ne_headerInvalid {part : Variable → Except Stop (Variable × VcResp)} (hpart : IsVcPart part)
    (hne : part s.var ≠ .error (.record .vHeaderInvalid)) (hfault : s.var.fault = none)
    (h : varREdge s w (part s.var) = .next t) {r : FaultRecord} (hr : t.var.fault = some r) :
    r.code ≠ .vHeaderInvalid := by
  obtain ⟨hf, -⟩ | ⟨-, code, hp, rfl⟩ | ⟨-, v, q, hok, rfl⟩ := varREdge_next.1 h
  · exact absurd hfault hf
  · cases hr
    rintro rfl
    exact hne hp
  · obtain ⟨head, rfl⟩ := hpart _ _ _ hok
    exact absurd (hfault.symm.trans hr) nofun

theorem exec_ne_headerInvalid (hinv : s.var.Inv) (hfault : s.var.fault = none) (h : exec i s = .next t)
    {r : FaultRecord} (hr : t.var.fault = some r) : r.code ≠ .vHeaderInvalid := by
  cases i with
  | vpNop a b =>
    exact varWEdge_ne_headerInvalid (w := vpWord s.var.cfg 0 a b) vpNopPart_isVpPart nofun hfault h hr
  | vpAlloc len b =>
    obtain ⟨a, ha⟩ := hinv.vpAllocPart_answers len
    exact varWEdge_ne_headerInvalid (vpAllocPart_isVpPart len) (by simp [ha]) hfault h hr
  | vpWrite off b =>
    exact varWEdge_ne_headerInvalid (vpWritePart_isVpPart off b) (vpWritePart_ne_headerInvalid _ off b) hfault h hr
  | vpPush a b => exact varWEdge_ne_headerInvalid vpPushPart_isVpPart (vpPushPart_ne_headerInvalid _) hfault h hr
  | vcNop a => exact varREdge_ne_headerInvalid (w := vcWord 0 a) vcNopPart_isVcPart nofun hfault h hr
  | vcFront a => exact varREdge_ne_headerInvalid vcFrontPart_isVcPart hinv.vcFrontPart_ne_headerInvalid hfault h hr
  | vcRead off =>
    exact varREdge_ne_headerInvalid (vcReadPart_isVcPart off) (hinv.vcReadPart_ne_headerInvalid off) hfault h hr
  | vcPop a => exact varREdge_ne_headerInvalid vcPopPart_isVcPart hinv.vcPopPart_ne_headerInvalid hfault h hr
  | _ =>
    rw [exec_fixed_keeps_var rfl h, hfault] at hr
    cases hr

end

/-! ### Placement (42_variable_packet_fifo.md R177 to R182, R193, R196) -/

section
variable {c : VarConfig} {t h h' len : Nat} {p : Placement}

/-- `VPlace` gives `p` iff `p` has the message's TOTAL and passes R177's tests. -/
theorem vPlaceAt_eq_some_iff :
    vPlaceAt c t h len = some p ↔
      p.total = totalOf c len ∧
        ((h ≤ t ∧ (t + p.total < c.capacity ∨ (t + p.total = c.capacity ∧ h ≠ 0)) ∧ p.off = t ∧ p.wrap = false) ∨
          (h ≤ t ∧ ¬(t + p.total < c.capacity ∨ (t + p.total = c.capacity ∧ h ≠ 0)) ∧ p.total < h ∧
            p.off = 0 ∧ p.wrap = true) ∨
          (t < h ∧ t + p.total < h ∧ p.off = t ∧ p.wrap = false)) := by
  obtain ⟨off, total, wrap⟩ := p
  simp only [vPlaceAt]
  split_ifs <;> grind

/-- `VPlace` gives none iff no test of R177 passes. -/
theorem vPlaceAt_eq_none_iff :
    vPlaceAt c t h len = none ↔
      (h ≤ t ∧ ¬(t + totalOf c len < c.capacity ∨ (t + totalOf c len = c.capacity ∧ h ≠ 0)) ∧ h ≤ totalOf c len) ∨
        (t < h ∧ h ≤ t + totalOf c len) := by
  simp only [vPlaceAt]
  split_ifs <;> simp only [true_iff, false_iff] <;> omega

theorem totalOf_mod_block (c : VarConfig) (len : Nat) : totalOf c len % c.block = 0 :=
  Nat.mod_eq_zero_of_dvd (dvd_roundup ..)

theorem capacity_mod_block (c : VarConfig) : c.capacity % c.block = 0 := by
  rw [← blocks_mul_block, Nat.mul_mod_left]

theorem two_dvd_capacity (c : VarConfig) : 2 ∣ c.capacity := by
  obtain ⟨hl, -⟩ := c.legal
  exact dvd_pow_self 2 (by omega)

/-- Two different aligned offsets are a block apart at least. -/
theorem add_block_le {x y : Nat} (hx : x % c.block = 0) (hy : y % c.block = 0) (hlt : x < y) : x + c.block ≤ y :=
  Nat.ModEq.add_le_of_lt (hx.trans hy.symm) hlt

theorem vPlaceAt_oversized (hh : h < c.capacity) (hbig : c.capacity - c.block < totalOf c len) :
    vPlaceAt c t h len = none := by
  have hcap : c.capacity ≤ totalOf c len := by
    by_contra hlt
    have hle := add_block_le (totalOf_mod_block c len) (capacity_mod_block c) (Nat.not_le.1 hlt)
    omega
  rw [vPlaceAt_eq_none_iff]
  omega

theorem vPlaceAt_fits (hh : h < c.capacity) (hp : vPlaceAt c t h len = some p) :
    p.off + p.total ≤ c.capacity ∧ (p.off + p.total) % c.capacity ≠ h := by
  obtain ⟨htotal, hcases⟩ := vPlaceAt_eq_some_iff.1 hp
  have hle := le_totalOf c len
  have hfit : p.off + p.total ≤ c.capacity := by omega
  refine ⟨hfit, ?_⟩
  obtain hlt | heq := Nat.lt_or_eq_of_le hfit
  · rw [Nat.mod_eq_of_lt hlt]
    omega
  · rw [heq, Nat.mod_self]
    omega

theorem vPlaceAt_total_le (hh : h < c.capacity) (hp : vPlaceAt c t h len = some p) :
    p.total ≤ c.capacity - c.block := by
  by_contra hbig
  rw [(vPlaceAt_eq_some_iff.1 hp).1] at hbig
  rw [vPlaceAt_oversized hh (Nat.not_le.1 hbig)] at hp
  cases hp

/-- The largest TOTAL is placed only with the FIFO seen as empty at 0 or at B (R180). -/
theorem vPlaceAt_largest_iff (hh : h < c.capacity) (hta : t % c.block = 0) (hha : h % c.block = 0)
    (hbig : totalOf c len = c.capacity - c.block) :
    (vPlaceAt c t h len).isSome = true ↔ t = h ∧ (t = 0 ∨ t = c.block) := by
  have hpos := block_pos c
  have hroom := add_block_le hha (capacity_mod_block c) hh
  have hzero : ∀ x, x % c.block = 0 → x < c.block → x = 0 := fun x hx hlt => by
    rwa [Nat.mod_eq_of_lt hlt] at hx
  have hhzero := hzero h hha
  constructor
  · intro hsome
    obtain ⟨p, hp⟩ := Option.isSome_iff_exists.1 hsome
    obtain ⟨htotal, ⟨hle, hlt | ⟨heq, hne⟩, -⟩ | ⟨-, -, hlt, -⟩ | ⟨-, hlt, -⟩⟩ := vPlaceAt_eq_some_iff.1 hp
    · have htzero := hzero t hta (by omega)
      omega
    · omega
    · omega
    · omega
  · rintro ⟨rfl, ht⟩
    rw [← Option.ne_none_iff_isSome, Ne, vPlaceAt_eq_none_iff]
    omega

theorem vPlaceAt_wrap (ht : t < c.capacity) (hta : t % c.block = 0) (hha : h % c.block = 0)
    (hp : vPlaceAt c t h len = some p) (hwrap : p.wrap = true) :
    p.off = 0 ∧ p.total < h ∧ h ≤ t ∧ c.block ≤ t ∧ t + c.block ≤ c.capacity := by
  obtain ⟨-, ⟨-, -, -, hno⟩ | ⟨hle, -, hlt, hoff, -⟩ | ⟨-, -, -, hno⟩⟩ := vPlaceAt_eq_some_iff.1 hp
  · rw [hno] at hwrap; cases hwrap
  · have hblock := add_block_le (Nat.zero_mod _) hha (Nat.zero_lt_of_lt hlt)
    exact ⟨hoff, hlt, hle, by omega, add_block_le hta (capacity_mod_block c) ht⟩
  · rw [hno] at hwrap; cases hwrap

theorem vPlaceAt_empty_ne_none (hhalf : totalOf c len ≤ c.capacity / 2) : vPlaceAt c t t len ≠ none := by
  have hpos := capacity_pos c
  rw [Ne, vPlaceAt_eq_none_iff]
  omega

theorem vPlaceAt_half_eq_none (hhalf : c.capacity / 2 < totalOf c len) :
    vPlaceAt c (c.capacity / 2) (c.capacity / 2) len = none := by
  have heven := Nat.div_mul_cancel (two_dvd_capacity c)
  rw [vPlaceAt_eq_none_iff]
  omega

/-- A placement survives the head moving nearer to the tail (R193). -/
theorem vPlaceAt_of_nearer (ht : t < c.capacity) (hh : h < c.capacity) (hh' : h' < c.capacity)
    (hnear : cdist h' t c.capacity ≤ cdist h t c.capacity) (hp : vPlaceAt c t h len = some p) :
    vPlaceAt c t h' len = some p := by
  rw [cdist_eq hh' ht, cdist_eq hh ht] at hnear
  rw [vPlaceAt_eq_some_iff] at hp ⊢
  obtain ⟨htotal, hcases⟩ := hp
  obtain ⟨hle, hfit, hplace⟩ | ⟨hle, hfull, hlow, hplace⟩ | ⟨hlt, hfit, hplace⟩ := hcases
  · have hbetween : h ≤ h' ∧ h' ≤ t := by split_ifs at hnear <;> omega
    exact ⟨htotal, .inl ⟨by omega, by omega, hplace⟩⟩
  · have hbetween : h ≤ h' ∧ h' ≤ t := by split_ifs at hnear <;> omega
    exact ⟨htotal, .inr (.inl ⟨by omega, by omega, by omega, hplace⟩)⟩
  · by_cases hle' : h' ≤ t
    · exact ⟨htotal, .inl ⟨hle', .inl (by omega), hplace⟩⟩
    · have hahead : h ≤ h' := by split_ifs at hnear <;> omega
      exact ⟨htotal, .inr (.inr ⟨by omega, by omega, hplace⟩)⟩

end

/-! ### What VP.ALLOC writes (42_variable_packet_fifo.md R186) -/

section
variable {s : State} {len : Nat} {b : Byte} {a : Nat}

theorem writeHeader_storeRead {c : VarConfig} {m n : List Host.Cell} {o total info : Nat}
    (h : writeHeader c m o total info = .ok n) :
    storeRead n a = if o ≤ a ∧ a < o + 8 then some (headerByte total info (a - o)) else storeRead m a := by
  split
  · next hin =>
    obtain ⟨n', hn', hholds⟩ := writeHeader_holdsHeader (writeHeader_ok.1 h).1 m total info
    obtain rfl : n' = n := Except.ok.inj (hn'.symm.trans h)
    have hread := hholds (a - o) (by omega)
    rwa [Nat.add_sub_cancel' hin.1] at hread
  · next hout => exact writeHeader_storeRead_outside h hout

theorem allocMem_storeRead {v : Variable} {p : Placement} {n : List Host.Cell} (h : allocMem v p len = .ok n) :
    storeRead n a =
      if p.off ≤ a ∧ a < p.off + 8 then some (headerByte p.total len (a - p.off))
      else if p.wrap = true ∧ v.tail ≤ a ∧ a < v.tail + 8 then
        some (headerByte v.cfg.block 0x80000000 (a - v.tail))
      else storeRead v.mem a := by
  obtain ⟨m, hm, hn⟩ := allocMem_ok.1 h
  rw [writeHeader_storeRead hn]
  congr 1
  split at hm
  · next hwrap => rw [writeHeader_storeRead hm]; simp only [hwrap, true_and]
  · next hwrap => cases hm; rw [if_neg fun hin => hwrap hin.1]

theorem exec_vpAlloc_refused (hfault : s.var.fault = none) (hp : vPlace s.var len = none) :
    ∃ t, exec (.vpAlloc len b) s = .next t ∧ s.AllocRefused t := by
  obtain ⟨t, hexec, ⟨hfixed, hpending, hresp⟩, hedge, htail, hresv, hmem⟩ := varWEdge_taken
    (w := vpWord s.var.cfg 1 len b) (vpAllocPart_isVpPart len) hfault (vpAllocPart_ok.2 (.inl ⟨hp, rfl, rfl⟩))
  exact ⟨t, hexec, hfixed, hpending, hresp, hedge, htail, hresv, hmem⟩

theorem exec_vpAlloc_placed (hfault : s.var.fault = none) {p : Placement} (hp : vPlace s.var len = some p)
    (htail : p.wrap = true → s.var.tail + 8 ≤ s.var.cfg.capacity) :
    ∃ t, exec (.vpAlloc len b) s = .next t ∧ s.AllocPlaced t p.off p.total len p.wrap := by
  have hhead := s.var.headW_lt
  obtain ⟨htotal, hcases⟩ := vPlaceAt_some hp
  obtain ⟨m, hm⟩ := allocMem_exists (v := s.var) (p := p) (len := len) (by grind) (by omega)
  obtain ⟨t, hexec, ⟨hfixed, hpending, hresp⟩, hedge, htail', ⟨hresv, hoff, htotal', hlen⟩, hmem⟩ := varWEdge_taken
    (w := vpWord s.var.cfg 1 len b) (vpAllocPart_isVpPart len) hfault
    (vpAllocPart_ok.2 (.inr ⟨p, m, hp, hm, rfl, rfl⟩))
  exact ⟨t, hexec, hfixed, hpending, hresp, hedge, htail', hresv, hoff, htotal', hlen,
    fun a => (hmem a).trans (allocMem_storeRead hm)⟩

end

/-! ### An edge of the variable FIFO that faults (60_exceptions.md R272, R274) -/

section
variable {s : State} {w : Nat} {v : Variable}

theorem varWEdge_faults {p : Except Stop (Variable × VpResp)} (hfault : s.var.fault = none) {code : FaultCode}
    (hp : p = .error (.record code)) :
    varWEdge s w p = .next (s.putVar (s.var.takeFault code .write w) .none) :=
  varWEdge_next.2 (.inr (.inl ⟨hfault, code, hp, rfl⟩))

theorem varREdge_faults {p : Except Stop (Variable × VcResp)} (hfault : s.var.fault = none) {code : FaultCode}
    (hp : p = .error (.record code)) :
    varREdge s w p = .next (s.putVar (s.var.takeFault code .read w) .none) :=
  varREdge_next.2 (.inr (.inl ⟨hfault, code, hp, rfl⟩))

theorem vpWritePart_of_no_resv (hresv : v.resv = false) (off : Nat) (b : Byte) :
    vpWritePart v off b = .error (.record .vWriteNoResv) :=
  if_pos hresv

theorem vpWritePart_of_range (hresv : v.resv = true) {off : Nat} (hoff : v.resvLen ≤ off) (b : Byte) :
    vpWritePart v off b = .error (.record .vWriteRange) := by
  rw [vpWritePart, if_neg (by rw [hresv]; nofun), if_pos hoff]

theorem vpPushPart_of_no_resv (hresv : v.resv = false) : vpPushPart v = .error (.record .vPushNoResv) :=
  if_pos hresv

theorem vcFrontPart_of_error {stop : Stop} (hview : vFrontView v = .error stop) : vcFrontPart v = .error stop := by
  rw [vcFrontPart, hview]

theorem vcReadPart_of_error {stop : Stop} (hview : vFrontView v = .error stop) (off : Nat) :
    vcReadPart v off = .error stop := by
  rw [vcReadPart, hview]

theorem vcReadPart_of_empty (hview : vFrontView v = .ok none) (off : Nat) :
    vcReadPart v off = .error (.record .vReadEmpty) := by
  rw [vcReadPart, hview]

theorem vcReadPart_of_range {x : Visible} (hview : vFrontView v = .ok (some x)) {off : Nat} (hoff : x.len ≤ off) :
    vcReadPart v off = .error (.record .vReadRange) := by
  simp only [vcReadPart, hview, if_pos hoff]

theorem vcReadPart_of_unwritten {x : Visible} (hview : vFrontView v = .ok (some x)) {off : Nat} (hoff : off < x.len)
    (haddr : payloadAddr x.off off < v.cfg.capacity) (hmem : storeRead v.mem (payloadAddr x.off off) = none) :
    vcReadPart v off = .error (.record .vReadUnwritten) := by
  simp only [vcReadPart, hview, if_neg (Nat.not_le.2 hoff), readCell, if_pos haddr, hmem]

theorem vcPopPart_of_error {stop : Stop} (hview : vFrontView v = .error stop) : vcPopPart v = .error stop := by
  rw [vcPopPart, hview]

theorem vcPopPart_of_empty (hview : vFrontView v = .ok none) : vcPopPart v = .error (.record .vPopEmpty) := by
  rw [vcPopPart, hview]

end

/-! ### Publishing around the ring (43_gray_pointer_sync.md R233, R236, R237) -/

section
variable {c : VarConfig} {a a' p t m pub ptr : Nat}

/-- A distance in blocks is that many blocks of bytes. -/
theorem cdist_mul_block (ha : a < c.blocks) (hp : p < c.blocks) :
    cdist (a * c.block) (p * c.block) c.capacity = cdist a p c.blocks * c.block := by
  have hle : a * c.block ≤ p * c.block ↔ a ≤ p := Nat.mul_le_mul_right_iff (block_pos c)
  rw [cdist_eq (mul_block_lt c ha) (mul_block_lt c hp), cdist_eq ha hp, if_congr hle rfl rfl, ← blocks_mul_block]
  split
  · rw [Nat.sub_mul]
  · rw [Nat.sub_mul, Nat.add_mul]

theorem cdist_publishStep_le (hpub : pub < m) (hptr : ptr < m) :
    cdist (publishStep pub ptr m) ptr m ≤ cdist pub ptr m := by
  unfold publishStep
  split
  · exact Nat.le_refl _
  · next hne => rw [cdist_succ_left hpub hptr hne]; exact Nat.le_succ _

/-- A publish step brings the published pointer nearer to its pointer `p`, or leaves it there. -/
theorem cdist_publishStep_mul_block_le (hpub : pub < c.blocks) (hp : p < c.capacity) (haligned : p % c.block = 0) :
    cdist (publishStep pub (p / c.block) c.blocks * c.block) p c.capacity ≤ cdist (pub * c.block) p c.capacity := by
  obtain ⟨q, rfl⟩ := Nat.dvd_of_mod_eq_zero haligned
  rw [← blocks_mul_block, Nat.mul_comm c.block] at hp
  have hq := Nat.lt_of_mul_lt_mul_right hp
  rw [Nat.mul_div_cancel_left _ (block_pos c), Nat.mul_comm c.block, cdist_mul_block (publishStep_lt hpub) hq,
    cdist_mul_block hpub hq]
  exact Nat.mul_le_mul_right _ (cdist_publishStep_le hpub hq)

/-- Seen from `t` ahead of `p`, what comes nearer to `p` from behind comes nearer to `t` and stays behind `p`. -/
theorem cdist_between (ha : a < m) (hp : p < m) (ht : t < m) (hnear : cdist a' p m ≤ cdist a p m)
    (hbehind : cdist p t m ≤ cdist a t m) : cdist p t m ≤ cdist a' t m ∧ cdist a' t m ≤ cdist a t m := by
  have hsum := cdist_add_cdist ha hp ht hbehind
  have hlt := cdist_lt (a := a) (b := t) (m := m) (by omega)
  have hsum' : cdist a' t m = cdist a' p m + cdist p t m := by
    rw [← cdist_add_right (e := cdist p t m) (by omega), add_cdist_mod hp ht]
  omega

/-- A tail that moves forward moves away from every position of the chain by the same number of positions, if the
farthest is not passed. -/
theorem InOrder.moveTail {rsync wsync : List Nat} {rpub head wpub e : Nat}
    (h : InOrder m t rsync rpub head wsync wpub) (hrsync : ∀ x ∈ rsync, cdist x t m + e < m)
    (hrpub : cdist rpub t m + e < m) : InOrder m ((t + e) % m) rsync rpub head wsync wpub := by
  have hhead : cdist head t m + e < m := by have := h.head_le; omega
  have hwpub : cdist wpub t m + e < m := by have := h.wpub_le_head; omega
  have hwsync : ∀ x ∈ wsync, cdist x t m + e < m := fun x hx => by have := h.wsync_le x hx; omega
  constructor
  · refine h.rsync_sorted.imp_of_mem fun hx hy hle => ?_
    rw [cdist_add_right (hrsync _ hx), cdist_add_right (hrsync _ hy)]
    exact Nat.add_le_add_right hle e
  · intro x hx
    rw [cdist_add_right hrpub, cdist_add_right (hrsync x hx)]
    exact Nat.add_le_add_right (h.rpub_le x hx) e
  · rw [cdist_add_right hhead, cdist_add_right hrpub]
    exact Nat.add_le_add_right h.head_le e
  · intro x hx
    rw [cdist_add_right (hwsync x hx), cdist_add_right hhead]
    exact Nat.add_le_add_right (h.wsync_le x hx) e
  · refine h.wsync_sorted.imp_of_mem fun hx hy hle => ?_
    rw [cdist_add_right (hwsync _ hx), cdist_add_right (hwsync _ hy)]
    exact Nat.add_le_add_right hle e
  · intro x hx
    rw [cdist_add_right hwpub, cdist_add_right (hwsync x hx)]
    exact Nat.add_le_add_right (h.wpub_le x hx) e
  · rw [cdist_add_right hwpub, cdist_add_right hhead]
    exact Nat.add_le_add_right h.wpub_le_head e

end

/-! ### Publish step and synchroniser shift keep the variable invariant (43_gray_pointer_sync.md R248) -/

section
variable {v : Variable} {x : Nat}

/-- Every stage of a synchroniser that shifts in a register of the width keeps the width. -/
theorem shiftIn_lt {n g bound : Nat} {l : List Nat} (hg : g < bound) (hl : ∀ x ∈ l, x < bound) :
    ∀ x ∈ shiftIn n g l, x < bound :=
  fun x hx => (mem_shiftIn hx).elim (fun heq => heq ▸ hg) (hl x)

/-- A shift that samples the Gray code of a published pointer takes in the pointer's offset. -/
theorem Variable.map_offsetOf_shiftIn (v : Variable) {pub : Nat} (hpub : pub < v.cfg.blocks) (stages : Nat)
    (sync : List Nat) : (shiftIn stages (bin2gray pub) sync).map v.offsetOf =
      (pub * v.cfg.block :: sync.map v.offsetOf).take stages := by
  rw [map_shiftIn, v.offsetOf_bin2gray hpub]

theorem Variable.Inv.wTick (hinv : v.Inv) : (v.wTick v).Inv := by
  have hordered := hinv.ordered
  have hroom := hinv.headW_room
  have hnear : cdist (v.wTick v).headW v.tail v.cfg.capacity ≤ cdist v.headW v.tail v.cfg.capacity :=
    hinv.headW_shift_le
  obtain ⟨hsized, haligned, ⟨hwgray, hrgray⟩, -, hresvOk, hunread⟩ := hinv
  obtain ⟨htail, hoff, htotal, hlen, hwpub, hwgrayLt, hhead, hrpub, hrgrayLt, hrlength, hrsync, hwlength, hwsync,
    hwf, hwithin⟩ := hsized
  have hstep : publishStep v.wpub (v.tail / v.cfg.block) v.cfg.blocks < v.cfg.blocks := publishStep_lt hwpub
  have hsized : (v.wTick v).Sized := ⟨htail, hoff, htotal, hlen, hstep, bin2gray_lt hstep, hhead, hrpub, hrgrayLt,
    shiftIn_length hrlength, shiftIn_lt hrgrayLt hrsync, hwlength, hwsync, hwf, hwithin⟩
  have hordered : (v.wTick v).Ordered := by
    have hshift := hordered.writeShift v.cfg.stages
      (cdist_publishStep_mul_block_le hwpub htail haligned.1)
    rwa [← v.map_offsetOf_shiftIn hrpub, ← hrgray] at hshift
  refine ⟨hsized, haligned, ⟨rfl, hrgray⟩, ⟨(chain_eq_cdist_iff_ordered hsized).2 hordered, hnear.trans hroom⟩,
    fun hresv => ?_, hunread⟩
  obtain ⟨hmessage, hplace, hextent⟩ := hresvOk hresv
  exact ⟨hmessage, hplace, (Nat.add_le_add_right hnear _).trans hextent⟩

theorem Variable.Inv.rTick (hinv : v.Inv) : (v.rTick v).Inv := by
  have hordered := hinv.ordered
  have hroom := hinv.headW_room
  obtain ⟨hsized, haligned, ⟨hwgray, hrgray⟩, -, hresvOk, hunread⟩ := hinv
  obtain ⟨htail, hoff, htotal, hlen, hwpub, hwgrayLt, hhead, hrpub, hrgrayLt, hrlength, hrsync, hwlength, hwsync,
    hwf, hwithin⟩ := hsized
  have hstep : publishStep v.rpub (v.head / v.cfg.block) v.cfg.blocks < v.cfg.blocks := publishStep_lt hrpub
  have hsized : (v.rTick v).Sized := ⟨htail, hoff, htotal, hlen, hwpub, hwgrayLt, hhead, hstep, bin2gray_lt hstep,
    hrlength, hrsync, shiftIn_length hwlength, shiftIn_lt hwgrayLt hwsync, hwf, hwithin⟩
  have hordered : (v.rTick v).Ordered := by
    obtain ⟨hbehind, hnearer⟩ := cdist_between (mul_block_lt _ hrpub) hhead htail
      (cdist_publishStep_mul_block_le hrpub hhead haligned.2.1) hordered.head_le
    have hshift := hordered.readShift v.cfg.stages hnearer hbehind
    rwa [← v.map_offsetOf_shiftIn hwpub, ← hwgray] at hshift
  exact ⟨hsized, haligned, ⟨hwgray, rfl⟩, ⟨(chain_eq_cdist_iff_ordered hsized).2 hordered, hroom⟩, hresvOk, hunread⟩

end

/-! ### Command parts keep the variable invariant (43_gray_pointer_sync.md R248; 10_state.md R49) -/

section
variable {v w : Variable} {r : VpResp} {len off : Nat} {b : Byte}

theorem Variable.headW_mod_block (v : Variable) : v.headW % v.cfg.block = 0 := Nat.mul_mod_left ..

/-- An aligned offset taken around the ring is aligned. -/
theorem mod_capacity_mod_block {c : VarConfig} {x : Nat} (hx : x % c.block = 0) : x % c.capacity % c.block = 0 := by
  rw [Nat.mod_mod_of_dvd _ (Nat.dvd_of_mod_eq_zero (capacity_mod_block c)), hx]

theorem add_mod_block {c : VarConfig} {x y : Nat} (hx : x % c.block = 0) (hy : y % c.block = 0) :
    (x + y) % c.block = 0 :=
  Nat.mod_eq_zero_of_dvd (dvd_add (Nat.dvd_of_mod_eq_zero hx) (Nat.dvd_of_mod_eq_zero hy))

/-- The chain stays in order when the tail moves forward without meeting the producer's view of the head. -/
theorem Variable.Inv.ordered_of_tail_moved (hinv : v.Inv) {e : Nat}
    (hroom : cdist v.headW v.tail v.cfg.capacity + e < v.cfg.capacity) :
    Variable.Ordered { v with tail := (v.tail + e) % v.cfg.capacity } := by
  have hrpub := hinv.ordered.rpub_le _ hinv.headW_mem
  refine hinv.ordered.moveTail (fun x hx => ?_) (by omega)
  have hfar := hinv.rsync_le_headW x hx
  omega

/-- The chain stays in order when the head moves forward over published bytes. -/
theorem Variable.Inv.ordered_of_head_moved (hinv : v.Inv) {e : Nat} (he : e ≤ cdist v.head v.tailR v.cfg.capacity) :
    Variable.Ordered { v with head := (v.head + e) % v.cfg.capacity } := by
  have hpublished := hinv.cdist_head_tailR
  have hmoved := cdist_add_left hinv.head_lt hinv.tail_lt (e := e) (by omega)
  have hbehind : cdist v.tailR v.tail v.cfg.capacity ≤
      cdist ((v.head + e) % v.cfg.capacity) v.tail v.cfg.capacity := by omega
  exact hinv.ordered.moveHead (hmoved.trans_le (Nat.sub_le ..))
    (fun x hx => (hinv.wsync_le_tailR x hx).trans hbehind)
    ((hinv.ordered.wpub_le _ hinv.tailR_mem).trans hbehind)

/-- Pushing the reserved message keeps the invariant: the tail moves by the message's extent, for which the
reservation holds the room. -/
theorem vpPushPart_keeps_inv (hinv : v.Inv) (h : vpPushPart v = .ok (w, r)) : w.Inv := by
  obtain ⟨hresv, rfl, -⟩ := vpPushPart_ok.1 h
  have hs := hinv.segmentAt_tail hresv
  have hnext : (v.resvOff + v.resvTotal) % v.cfg.capacity = (v.tail + v.resvExtent) % v.cfg.capacity :=
    segmentAt_next hinv.tail_lt hs
  obtain ⟨l, hl⟩ := hinv.exists_unread
  obtain ⟨hunread, -⟩ := Variable.unread_of_tail_moved hinv.head_lt hinv.tail_lt hl hs (hinv.resv_fits hresv)
    (u := { v with tail := (v.resvOff + v.resvTotal) % v.cfg.capacity, resv := false }) rfl rfl hnext rfl
  obtain ⟨-, -, hextent⟩ := hinv.resvOk hresv
  have hblock := block_pos v.cfg
  have hcap := capacity_pos v.cfg
  have hroom : cdist v.headW v.tail v.cfg.capacity + v.resvExtent < v.cfg.capacity := by omega
  have hordered := hinv.ordered_of_tail_moved hroom
  obtain ⟨⟨-, hsized⟩, ⟨-, hheada, hresva⟩, hgray, -⟩ := hinv
  obtain ⟨hoffa, htotala, -⟩ := hresva hresv
  rw [hnext] at hunread ⊢
  have htaila : (v.tail + v.resvExtent) % v.cfg.capacity % v.cfg.block = 0 :=
    hnext ▸ mod_capacity_mod_block (add_mod_block hoffa htotala)
  have hsized : Variable.Sized { v with tail := (v.tail + v.resvExtent) % v.cfg.capacity, resv := false } :=
    ⟨Nat.mod_lt _ hcap, hsized⟩
  refine ⟨hsized, ⟨htaila, hheada, nofun⟩, hgray,
    ⟨(Variable.chain_eq_cdist_iff_ordered hsized).2 hordered, ?_⟩, nofun, ?_⟩
  · exact (cdist_add_right hroom).trans_le hextent
  · rw [hunread, Option.isSome_some]

/-- Popping the message shown keeps the invariant: the head moves to the end of a segment that is published. -/
theorem vcPopPart_keeps_inv {q : VcResp} (hinv : v.Inv) (h : vcPopPart v = .ok (w, q)) : w.Inv := by
  obtain ⟨x, hshown, rfl, -⟩ := vcPopPart_ok.1 h
  obtain ⟨e, l, hunread, hs, he⟩ := hinv.shown hshown
  obtain ⟨hd, hplace⟩ := segmentAt_some hs
  obtain ⟨htotal, -⟩ := hdrDecode_message hd
  have hnext := segmentAt_next hinv.head_lt hs
  obtain ⟨hunread', -⟩ := Variable.unread_of_head_moved hinv.head_lt hinv.tail_lt hunread
    (u := { v with head := (x.off + x.total) % v.cfg.capacity }) rfl rfl rfl rfl
  have hordered := hinv.ordered_of_head_moved he
  obtain ⟨hsized, ⟨htaila, hheada, hresva⟩, hgray, ⟨-, hroom⟩, hresvOk, -⟩ := hinv
  obtain ⟨htail, hoff, htotal', hlen, hwpub, hwgray, -, hsized⟩ := hsized
  have hoffa : x.off % v.cfg.block = 0 := by
    obtain ⟨hoff, -⟩ | ⟨hoff, -⟩ := hplace <;> rw [hoff]
    · exact hheada
    · exact Nat.zero_mod _
  have hheada' : (v.head + e) % v.cfg.capacity % v.cfg.block = 0 :=
    hnext ▸ mod_capacity_mod_block (add_mod_block hoffa (htotal ▸ totalOf_mod_block ..))
  rw [hnext] at hunread' ⊢
  have hsized : Variable.Sized { v with head := (v.head + e) % v.cfg.capacity } :=
    ⟨htail, hoff, htotal', hlen, hwpub, hwgray, Nat.mod_lt _ (capacity_pos _), hsized⟩
  refine ⟨hsized, ⟨htaila, hheada', hresva⟩, hgray,
    ⟨(Variable.chain_eq_cdist_iff_ordered hsized).2 hordered, hroom⟩, hresvOk, ?_⟩
  rw [hunread', Option.isSome_some]

theorem messageAt_of_hdrDecode {c : VarConfig} {m : List Host.Cell} {o total : Nat}
    (hd : hdrDecode c m o = .ok (.message total len)) : messageAt c m o total len = true := by
  simp [messageAt, hd]

theorem sentinelAt_of_hdrDecode {c : VarConfig} {m : List Host.Cell} {o : Nat}
    (hd : hdrDecode c m o = .ok .sentinel) : sentinelAt c m o = true := by
  simp only [sentinelAt, hd]

/-- A command part that changes the reservation, and storage outside the unread region, keeps the invariant if the
reservation it leaves is a placed message. -/
theorem Variable.Inv.of_reservation (hinv : v.Inv) {m : List Host.Cell} {resv : Bool} {p total len : Nat}
    (hbounds : p < v.cfg.capacity ∧ total < v.cfg.capacity ∧ len < v.cfg.capacity)
    (hplaced : resv = true → p % v.cfg.block = 0 ∧ total % v.cfg.block = 0 ∧ v.cfg.block ≤ total ∧
      total ≤ v.cfg.capacity - v.cfg.block ∧ p + total ≤ v.cfg.capacity)
    (hwf : Store.wf m) (hwithin : Store.within v.cfg.capacity m)
    (hmem : ∀ k < cdist v.head v.tail v.cfg.capacity,
      storeRead m ((v.head + k) % v.cfg.capacity) = storeRead v.mem ((v.head + k) % v.cfg.capacity))
    (hresvOk : Variable.ResvOk { v with mem := m, resv := resv, resvOff := p, resvTotal := total, resvLen := len }) :
    Variable.Inv { v with mem := m, resv := resv, resvOff := p, resvTotal := total, resvLen := len } := by
  obtain ⟨l, hl⟩ := hinv.exists_unread
  have hunread := (unread_congr hinv.head_lt hl
    (u := { v with mem := m, resv := resv, resvOff := p, resvTotal := total, resvLen := len }) rfl rfl rfl hmem).1
  obtain ⟨hoff, htotal, hlen⟩ := hbounds
  obtain ⟨hsized, ⟨htaila, hheada, -⟩, hgray, hchain, -, -⟩ := hinv
  obtain ⟨htail, -, -, -, hwpub, hwgray, hhead, hrpub, hrgray, hrlength, hrsync, hwlength, hwsync, -⟩ := hsized
  refine ⟨⟨htail, hoff, htotal, hlen, hwpub, hwgray, hhead, hrpub, hrgray, hrlength, hrsync, hwlength, hwsync, hwf,
    hwithin⟩, ⟨htaila, hheada, hplaced⟩, hgray, hchain, hresvOk, ?_⟩
  rw [hunread, Option.isSome_some]

/-- Behind a skip the reserved message ends a block at least before the tail. -/
theorem Variable.Inv.resvTotal_le_tail (hinv : v.Inv) (hresv : v.resv = true) (hskip : v.resvOff ≠ v.tail) :
    v.resvTotal + v.cfg.block ≤ v.tail := by
  obtain ⟨-, -, hextent⟩ := hinv.resvOk hresv
  rw [resvExtent, if_neg hskip] at hextent
  omega

/-- Writing a payload byte keeps the invariant: it changes neither header of the reservation. -/
theorem vpWritePart_keeps_inv (hinv : v.Inv) (h : vpWritePart v off b = .ok (w, r)) : w.Inv := by
  have hread := fun x (hx : ¬v.SeenFree x) => hinv.vpWritePart_storeRead hx h
  obtain ⟨hresv, hoff, haddr, rfl, -⟩ := vpWritePart_ok.1 h
  have hd := hinv.resv_header hresv
  have hskip := hinv.resvTotal_le_tail hresv
  obtain ⟨hextent, -⟩ := payloadAddr_lt_of_message hd hoff
  obtain ⟨-, -, hplaced⟩ := hinv.aligned
  obtain ⟨-, hplace, hroom⟩ := hinv.resvOk hresv
  refine hinv.of_reservation hinv.reservation_lt hplaced (Store.wf_storeWrite hinv.store_wf _ _)
    (Store.within_storeWrite hinv.store_within haddr _) (fun k hk => hread _ (hinv.not_seenFree_of_unread hk))
    fun _ => ⟨messageAt_of_hdrDecode ?_, ?_, hroom⟩
  · refine (hdrDecode_congr fun a _ (hhigh : a < v.resvOff + 8) => storeRead_storeWrite_ne _ _ ?_).trans hd
    simp only [payloadAddr, hdrBytes]
    omega
  · by_cases hcontiguous : v.resvOff = v.tail
    · exact .inl hcontiguous
    · have hbefore := hskip hcontiguous
      obtain ⟨hzero, hsentinel⟩ := hplace.resolve_left hcontiguous
      refine .inr ⟨hzero, sentinelAt_of_hdrDecode ?_⟩
      refine (hdrDecode_congr fun a (hlow : v.tail ≤ a) _ => storeRead_storeWrite_ne _ _ ?_).trans
        (hdrDecode_of_sentinelAt hsentinel)
      omega

/-- The storage VP.ALLOC leaves lists existing addresses. -/
theorem Store.within_allocMem {p : Placement} {n : List Host.Cell} (h : Store.within v.cfg.capacity v.mem)
    (ha : allocMem v p len = .ok n) : Store.within v.cfg.capacity n := by
  have hheader : ∀ {m n : List Host.Cell} {o total info : Nat}, Store.within v.cfg.capacity m →
      writeHeader v.cfg m o total info = .ok n → Store.within v.cfg.capacity n := by
    intro m n o total info hm hn
    obtain ⟨hfit, rfl⟩ := writeHeader_ok.1 hn
    exact Store.within_leWrite _ (Store.within_leWrite _ hm (by omega) _) (by omega) _
  obtain ⟨m, hm, hn⟩ := allocMem_ok.1 ha
  refine hheader ?_ hn
  split at hm
  · exact hheader h hm
  · cases hm; exact h

/-- The header VP.ALLOC writes decodes as its message, and the sentinel before a wrapped message as a sentinel. -/
theorem Variable.Inv.allocMem_headers (hinv : v.Inv) {p : Placement} {n : List Host.Cell}
    (hp : vPlace v len = some p) (ha : allocMem v p len = .ok n) :
    hdrDecode v.cfg n p.off = .ok (.message p.total len) ∧
      (p.wrap = true → hdrDecode v.cfg n v.tail = .ok .sentinel) := by
  have hcap := capacity_le v.cfg
  have htail := hinv.tail_header_fits
  obtain ⟨hfit, -⟩ := vPlaceAt_fits v.headW_lt hp
  have hle := vPlaceAt_total_le v.headW_lt hp
  obtain ⟨htotal, hcases⟩ := vPlaceAt_eq_some_iff.1 hp
  have hlen := le_totalOf v.cfg len
  constructor
  · have hbytes : HoldsHeader n p.off p.total len := fun k hk => by
      rw [allocMem_storeRead ha, if_pos (by omega), Nat.add_sub_cancel_left]
    rw [hbytes.hdrDecode_eq (by omega) (by omega) (by omega), headerOfWords_eq (by omega), if_neg (by omega),
      if_pos ⟨htotal, hle, hfit⟩]
  · intro hwrap
    have hbefore : p.off + p.total ≤ v.tail := by
      obtain ⟨-, -, -, hno⟩ | ⟨hle, -, hlt, hoff, -⟩ | ⟨-, -, -, hno⟩ := hcases
      · rw [hno] at hwrap; cases hwrap
      · omega
      · rw [hno] at hwrap; cases hwrap
    have hbytes : HoldsHeader n v.tail v.cfg.block 0x80000000 := fun k hk => by
      rw [allocMem_storeRead ha, if_neg (by omega), if_pos ⟨hwrap, by omega, by omega⟩, Nat.add_sub_cancel_left]
    rw [hbytes.hdrDecode_eq htail (by omega) (by decide), headerOfWords_eq (by decide), if_pos (by decide),
      if_pos ⟨rfl, by decide⟩]

/-- A placed message's extent lies in what the producer sees as free, one block short of it (R178 to R182). -/
theorem Variable.Inv.placed_extent_le (hinv : v.Inv) {p : Placement} (hp : vPlace v len = some p) :
    cdist v.headW v.tail v.cfg.capacity + (if p.off = v.tail then p.total else v.cfg.capacity - v.tail + p.total) ≤
      v.cfg.capacity - v.cfg.block := by
  have htail := hinv.tail_lt
  have hheadW := v.headW_lt
  have hheada := v.headW_mod_block
  obtain ⟨htaila, -⟩ := hinv.aligned
  obtain ⟨htotal, hcases⟩ := vPlaceAt_eq_some_iff.1 hp
  have htotala : p.total % v.cfg.block = 0 := htotal ▸ totalOf_mod_block ..
  have hcapa := capacity_mod_block v.cfg
  have hgap : ∀ {x y}, x % v.cfg.block = 0 → y % v.cfg.block = 0 → x < y → x + v.cfg.block ≤ y := add_block_le
  rw [cdist_eq hheadW htail]
  obtain ⟨hle, hfit, hoff, -⟩ | ⟨hle, -, hlt, hoff, -⟩ | ⟨hlt, hfit, hoff, -⟩ := hcases
  · rw [if_pos hle, if_pos hoff]
    obtain hfit | ⟨hend, hne⟩ := hfit
    · have := hgap (add_mod_block htaila htotala) hcapa hfit
      omega
    · have := hgap (Nat.zero_mod _) hheada (Nat.pos_of_ne_zero hne)
      omega
  · have := hgap htotala hheada hlt
    rw [if_pos hle, if_neg (by omega)]
    omega
  · have := hgap (add_mod_block htaila htotala) hheada hfit
    rw [if_neg (by omega), if_pos hoff]
    omega

/-- Reserving a message keeps the invariant: its headers and its extent are in what the producer sees as free. -/
theorem vpAllocPart_keeps_inv (hinv : v.Inv) (h : vpAllocPart v len = .ok (w, r)) : w.Inv := by
  have hread := fun x (hx : ¬v.SeenFree x) => hinv.vpAllocPart_storeRead hx h
  obtain ⟨-, rfl, -⟩ | ⟨p, m, hp, hm, rfl, -⟩ := vpAllocPart_ok.1 h
  · exact hinv
  · obtain ⟨hheader, hsentinel⟩ := hinv.allocMem_headers hp hm
    have hextent := hinv.placed_extent_le hp
    have hblock := block_pos v.cfg
    obtain ⟨hfit, -⟩ := vPlaceAt_fits v.headW_lt hp
    have hle := vPlaceAt_total_le v.headW_lt hp
    obtain ⟨htotal, hcases⟩ := vPlaceAt_eq_some_iff.1 hp
    have hlen := le_totalOf v.cfg len
    have htotala : p.total % v.cfg.block = 0 := htotal ▸ totalOf_mod_block ..
    have hblockle : v.cfg.block ≤ p.total := htotal ▸ block_le_totalOf ..
    obtain ⟨htaila, -⟩ := hinv.aligned
    have hplace : p.off = v.tail ∨ (p.off = 0 ∧ p.wrap = true) := by
      obtain ⟨-, -, hoff, -⟩ | ⟨-, -, -, hoff, hwrap⟩ | ⟨-, -, hoff, -⟩ := hcases
      · exact .inl hoff
      · exact .inr ⟨hoff, hwrap⟩
      · exact .inl hoff
    have hoffa : p.off % v.cfg.block = 0 := by
      obtain hoff | ⟨hoff, -⟩ := hplace <;> rw [hoff]
      · exact htaila
      · exact Nat.zero_mod _
    refine hinv.of_reservation ⟨by omega, by omega, by omega⟩ (fun _ => ⟨hoffa, htotala, hblockle, hle, hfit⟩)
      (Store.wf_allocMem hinv.store_wf hm) (Store.within_allocMem hinv.store_within hm)
      (fun k hk => hread _ (hinv.not_seenFree_of_unread hk)) fun _ => ⟨messageAt_of_hdrDecode hheader, ?_, hextent⟩
    exact hplace.imp_right fun ⟨hoff, hwrap⟩ => ⟨hoff, sentinelAt_of_hdrDecode (hsentinel hwrap)⟩

end

/-! ### Every command keeps the variable invariant (43_gray_pointer_sync.md R248) -/

section
variable {v u : Variable} {len off : Nat} {b : Byte}

theorem Variable.Inv.vPlace_wTick (hinv : v.Inv) {p : Placement} (hp : vPlace v len = some p) :
    vPlace (v.wTick v) len = some p :=
  vPlaceAt_of_nearer hinv.tail_lt v.headW_lt (v.wTick v).headW_lt hinv.headW_shift_le hp

theorem Variable.Inv.vFrontView_rTick (hinv : v.Inv) {x : Visible} (hshown : vFrontView v = .ok (some x)) :
    vFrontView (v.rTick v) = .ok (some x) := by
  obtain ⟨e, l, -, hs, he⟩ := hinv.shown hshown
  have hgrows : cdist v.head v.tailR v.cfg.capacity ≤ cdist v.head (v.rTick v).tailR v.cfg.capacity :=
    cdist_le_of_nearer hinv.head_lt v.tailR_lt (v.rTick v).tailR_lt hinv.tail_lt hinv.tailR_shift_le hinv.tailR_le
  exact (vFrontViewAt_of_segmentAt hs _).trans (by rw [if_neg (Nat.not_lt.2 (he.trans hgrows))])

/-! The command parts answer on the state after the tick what they answer before it. -/

theorem vpAllocPart_wTick_keeps_inv (hinv : v.Inv) {r : VpResp} (h : vpAllocPart v len = .ok (u, r)) :
    (u.wTick v).Inv := by
  obtain ⟨-, rfl, -⟩ | ⟨p, m, hp, hm, rfl, -⟩ := vpAllocPart_ok.1 h
  · exact hinv.wTick
  · exact vpAllocPart_keeps_inv hinv.wTick (vpAllocPart_ok.2 (.inr ⟨p, m, hinv.vPlace_wTick hp, hm, rfl, rfl⟩))

theorem vpWritePart_wTick_keeps_inv (hinv : v.Inv) {r : VpResp} (h : vpWritePart v off b = .ok (u, r)) :
    (u.wTick v).Inv := by
  obtain ⟨hresv, hoff, haddr, rfl, -⟩ := vpWritePart_ok.1 h
  exact vpWritePart_keeps_inv hinv.wTick (vpWritePart_ok.2 ⟨hresv, hoff, haddr, rfl, rfl⟩)

theorem vpPushPart_wTick_keeps_inv (hinv : v.Inv) {r : VpResp} (h : vpPushPart v = .ok (u, r)) :
    (u.wTick v).Inv := by
  obtain ⟨hresv, rfl, -⟩ := vpPushPart_ok.1 h
  exact vpPushPart_keeps_inv hinv.wTick (vpPushPart_ok.2 ⟨hresv, rfl, rfl⟩)

theorem vcPopPart_rTick_keeps_inv (hinv : v.Inv) {r : VcResp} (h : vcPopPart v = .ok (u, r)) :
    (u.rTick v).Inv := by
  obtain ⟨x, hshown, rfl, -⟩ := vcPopPart_ok.1 h
  exact vcPopPart_keeps_inv hinv.rTick (vcPopPart_ok.2 ⟨x, hinv.vFrontView_rTick hshown, rfl, rfl⟩)

end

section
variable {s t : State} {w len : Nat} {i : Instr} {b : Byte} {p : Placement}

theorem varWEdge_keeps_inv {part : Except Stop (Variable × VpResp)} (hinv : s.var.Inv)
    (hpart : ∀ u r, part = .ok (u, r) → (u.wTick s.var).Inv) (h : varWEdge s w part = .next t) : t.var.Inv := by
  obtain ⟨-, -, record, ht⟩ | ⟨-, u, r, hok, ht, -⟩ := varWEdge_faulted_or_taken h <;> rw [ht]
  · exact hinv
  · exact hpart u r hok

theorem varREdge_keeps_inv {part : Except Stop (Variable × VcResp)} (hinv : s.var.Inv)
    (hpart : ∀ u r, part = .ok (u, r) → (u.rTick s.var).Inv) (h : varREdge s w part = .next t) : t.var.Inv := by
  obtain ⟨-, -, record, ht⟩ | ⟨-, u, r, hok, ht, -⟩ := varREdge_faulted_or_taken h <;> rw [ht]
  · exact hinv
  · exact hpart u r hok

theorem exec_keeps_var_inv (hinv : s.var.Inv) (h : exec i s = .next t) : t.var.Inv := by
  cases i with
  | vpNop a b =>
    refine varWEdge_keeps_inv (w := vpWord s.var.cfg 0 a b) (part := vpNopPart s.var) hinv (fun u r hok => ?_) h
    rw [(vpNopPart_ok.1 hok).1]
    exact hinv.wTick
  | vpAlloc len b => exact varWEdge_keeps_inv hinv (fun _ _ => vpAllocPart_wTick_keeps_inv hinv) h
  | vpWrite off b => exact varWEdge_keeps_inv hinv (fun _ _ => vpWritePart_wTick_keeps_inv hinv) h
  | vpPush a b => exact varWEdge_keeps_inv hinv (fun _ _ => vpPushPart_wTick_keeps_inv hinv) h
  | vcNop a =>
    refine varREdge_keeps_inv (w := vcWord 0 a) (part := vcNopPart s.var) hinv (fun u r hok => ?_) h
    rw [(vcNopPart_ok.1 hok).1]
    exact hinv.rTick
  | vcFront a =>
    refine varREdge_keeps_inv hinv (fun u r hok => ?_) h
    rw [(vcFrontPart_ok.1 hok).1]
    exact hinv.rTick
  | vcRead off =>
    refine varREdge_keeps_inv hinv (fun u r hok => ?_) h
    rw [(vcReadPart_ok.1 hok).1]
    exact hinv.rTick
  | vcPop a => exact varREdge_keeps_inv hinv (fun _ _ => vcPopPart_rTick_keeps_inv hinv) h
  | _ =>
    rw [exec_fixed_keeps_var rfl h]
    exact hinv

/-! ### A reservation is what VP.ALLOC of its length gives again (42_variable_packet_fifo.md R193) -/

/-- A command leaves the producer's view of the head, or moves it by one shift of the synchroniser. -/
theorem exec_var_headW (h : exec i s = .next t) :
    t.var.headW = s.var.headW ∨ t.var.headW =
      s.var.offsetOf (lastStage s.var.cfg.stages (shiftIn s.var.cfg.stages s.var.rgray s.var.rsync)) := by
  by_cases hp : i.port = .vp
  · obtain ⟨part, hpart, hexec⟩ := exec_vp hp
    obtain ⟨-, -, record, ht⟩ | ⟨-, v, r, hok, ht, -⟩ := varWEdge_faulted_or_taken (hexec s ▸ h)
    · rw [ht]
      exact .inl rfl
    · obtain ⟨tail, resv, off, total, len, mem, rfl⟩ := hpart _ _ _ hok
      rw [ht]
      exact .inr rfl
  · left
    cases hk : i.port.kind with
    | fixedSlot => rw [exec_fixed_keeps_var hk h]
    | variableLength =>
      have hport := (Port.variableLength_cases hk).resolve_left hp
      obtain ⟨-, ⟨-, -, -, -, hrsync⟩⟩ := exec_read_sameWriteSide (by rw [hport]; rfl) h
      rw [Variable.headW, Variable.headW, hrsync, (exec_keeps_cfg h).2]

/-- A placement is found again after any command that does not move the tail. -/
theorem exec_keeps_vPlace (hinv : s.var.Inv) (hpush : ∀ x y, i ≠ .vpPush x y) (h : exec i s = .next t)
    (hp : vPlace s.var len = some p) : vPlace t.var len = some p := by
  have hnear : cdist t.var.headW s.var.tail s.var.cfg.capacity ≤ cdist s.var.headW s.var.tail s.var.cfg.capacity := by
    obtain heq | heq := exec_var_headW h <;> rw [heq]
    exact hinv.headW_shift_le
  have hlt := t.var.headW_lt
  rw [(exec_keeps_cfg h).2] at hlt
  rw [vPlace, (exec_keeps_cfg h).2, exec_keeps_var_tail hpush h]
  exact vPlaceAt_of_nearer hinv.tail_lt s.var.headW_lt hlt hnear hp

/-- The reservation held is the placement `p` of a message of length `len`, and `VPlace` of that length is `p`. -/
structure Variable.Reserves (v : Variable) (len : Nat) (p : Placement) : Prop where
  inv : v.Inv
  placed : vPlace v len = some p
  resv : v.resv = true
  off : v.resvOff = p.off
  total : v.resvTotal = p.total
  len : v.resvLen = len

theorem Variable.Reserves.sameReservation {v u : Variable} (hv : v.Reserves len p) (hu : u.Reserves len p) :
    v.SameReservation u :=
  ⟨hu.resv.trans hv.resv.symm, hu.off.trans hv.off.symm, hu.total.trans hv.total.symm, hu.len.trans hv.len.symm⟩

theorem varWEdge_keeps_reservation {part : Except Stop (Variable × VpResp)}
    (hpart : ∀ u r, part = .ok (u, r) → s.var.SameReservation u) (h : varWEdge s w part = .next t) :
    s.var.SameReservation t.var := by
  obtain ⟨-, -, record, ht⟩ | ⟨-, u, r, hok, ht, -⟩ := varWEdge_faulted_or_taken h <;> rw [ht]
  · exact ⟨rfl, rfl, rfl, rfl⟩
  · exact hpart u r hok

/-- Only VP.ALLOC and VP.PUSH change the reservation. -/
theorem exec_keeps_reservation (halloc : ∀ l y, i ≠ .vpAlloc l y) (hpush : ∀ x y, i ≠ .vpPush x y)
    (h : exec i s = .next t) : s.var.SameReservation t.var := by
  cases i with
  | vpNop a b =>
    refine varWEdge_keeps_reservation (w := vpWord s.var.cfg 0 a b) (part := vpNopPart s.var) (fun u r hok => ?_) h
    rw [(vpNopPart_ok.1 hok).1]
    exact ⟨rfl, rfl, rfl, rfl⟩
  | vpAlloc len b => exact absurd rfl (halloc len b)
  | vpWrite off b =>
    refine varWEdge_keeps_reservation (fun u r hok => ?_) h
    obtain ⟨-, -, -, rfl, -⟩ := vpWritePart_ok.1 hok
    exact ⟨rfl, rfl, rfl, rfl⟩
  | vpPush a b => exact absurd rfl (hpush a b)
  | vcNop | vcFront | vcRead | vcPop => exact (exec_read_sameWriteSide rfl h).2.2.1
  | _ =>
    rw [exec_fixed_keeps_var rfl h]
    exact ⟨rfl, rfl, rfl, rfl⟩

/-- VP.ALLOC of the reservation's length leaves the reservation's registers as they are. -/
theorem Variable.Reserves.exec_vpAlloc (hres : s.var.Reserves len p) (h : exec (.vpAlloc len b) s = .next t) :
    s.var.SameReservation t.var := by
  refine varWEdge_keeps_reservation (fun u r hok => ?_) h
  obtain ⟨hp, -⟩ | ⟨p', m, hp, -, rfl, -⟩ := vpAllocPart_ok.1 hok
  · rw [hres.placed] at hp
    cases hp
  · rw [hres.placed] at hp
    cases hp
    exact ⟨hres.resv.symm, hres.off.symm, hres.total.symm, hres.len.symm⟩

theorem Variable.Reserves.of_exec (hres : s.var.Reserves len p) (hpush : ∀ x y, i ≠ .vpPush x y)
    (halloc : ∀ l y, i = .vpAlloc l y → l = len) (h : exec i s = .next t) : t.var.Reserves len p := by
  have hsame : s.var.SameReservation t.var := by
    by_cases hi : ∃ l y, i = .vpAlloc l y
    · obtain ⟨l, y, rfl⟩ := hi
      obtain rfl := halloc l y rfl
      exact hres.exec_vpAlloc h
    · exact exec_keeps_reservation (fun l y hly => hi ⟨l, y, hly⟩) hpush h
  obtain ⟨hresv, hoff, htotal, hlen⟩ := hsame
  exact ⟨exec_keeps_var_inv hres.inv h, exec_keeps_vPlace hres.inv hpush h hres.placed, hresv.trans hres.resv,
    hoff.trans hres.off, htotal.trans hres.total, hlen.trans hres.len⟩

theorem Variable.Reserves.of_execAll {cmds : List Instr} (hres : s.var.Reserves len p)
    (hcmds : ∀ i ∈ cmds, (∀ x y, i ≠ .vpPush x y) ∧ (∀ l y, i = .vpAlloc l y → l = len))
    (h : execAll cmds s = .next t) : t.var.Reserves len p := by
  induction cmds generalizing s with
  | nil => cases h; exact hres
  | cons i cmds ih =>
    obtain ⟨u, hu, ht⟩ := execAll_cons.1 h
    obtain ⟨⟨hpush, halloc⟩, hcmds⟩ := List.forall_mem_cons.1 hcmds
    exact ih (hres.of_exec hpush halloc hu) hcmds ht

/-- A VP.ALLOC that returns `ok = 1` leaves its message reserved. -/
theorem exec_vpAlloc_reserves {hoff : Nat} (hinv : s.var.Inv) (h : exec (.vpAlloc len b) s = .next t)
    (hr : t.resp = .vp (vpReserved hoff)) : ∃ p, p.off = hoff ∧ t.var.Reserves len p := by
  obtain ⟨-, hnone, -⟩ | ⟨-, u, r, hok, ht, hr'⟩ := varWEdge_faulted_or_taken h
  · rw [hr] at hnone
    cases hnone
  · rw [hr] at hr'
    cases hr'
    obtain ⟨-, -, hnot⟩ | ⟨p, m, hp, hm, rfl, heq⟩ := vpAllocPart_ok.1 hok
    · cases hnot
    · cases heq
      have hplaced := exec_keeps_vPlace hinv (by simp) h hp
      exact ⟨p, rfl, exec_keeps_var_inv hinv h, hplaced, by rw [ht]; rfl, by rw [ht]; rfl, by rw [ht]; rfl,
        by rw [ht]; rfl⟩

/-! ### A header that decodes has the bytes VP.ALLOC writes (42_variable_packet_fifo.md R173) -/

/-- A word that was written has each of its bytes written (00_scope.md R16, R17). -/
theorem leRead_some {n o x : Nat} {m : List Host.Cell} (h : leRead m o n = some x) :
    x < 2 ^ (8 * n) ∧ ∀ k < n, storeRead m (o + k) = some (BitVec.ofNat 8 (x / 2 ^ (8 * k))) := by
  induction n generalizing o x with
  | zero => cases h; exact ⟨by decide, nofun⟩
  | succ n ih =>
    simp only [leRead] at h
    split at h
    · next byte rest hbyte hrest =>
      cases h
      obtain ⟨hlt, hbytes⟩ := ih hrest
      refine ⟨?_, fun k hk => ?_⟩
      · rw [Nat.mul_succ, pow_add]
        omega
      · cases k with
        | zero =>
          rw [Nat.add_zero, hbyte, Nat.mul_zero, pow_zero, Nat.div_one]
          congr 1
          apply BitVec.eq_of_toNat_eq
          rw [BitVec.toNat_ofNat]
          omega
        | succ k =>
          have hshift : (byte.toNat + 2 ^ 8 * rest) / 2 ^ (8 * (k + 1)) = rest / 2 ^ (8 * k) := by
            rw [Nat.mul_succ, Nat.add_comm (8 * k), pow_add, ← Nat.div_div_eq_div_mul]
            congr 1
            omega
          rw [hshift, ← hbytes k (by omega)]
          congr 1
          omega
    · cases h

theorem hdrDecode_ok {c : VarConfig} {m : List Host.Cell} {o : Nat} {header : Header}
    (hd : hdrDecode c m o = .ok header) :
    ∃ w0 w1, leRead m o 4 = some w0 ∧ leRead m (o + 4) 4 = some w1 ∧ headerOfWords c o w0 w1 = .ok header := by
  unfold hdrDecode at hd
  split at hd
  · cases hd
  · cases hd
  · next h0 h1 => exact ⟨_, _, (vMemRead_ok.1 h0).2.symm, (vMemRead_ok.1 h1).2.symm, hd⟩
  · cases hd

theorem holdsHeader_of_words {m : List Host.Cell} {o w0 w1 : Nat} (h0 : leRead m o 4 = some w0)
    (h1 : leRead m (o + 4) 4 = some w1) : HoldsHeader m o w0 w1 := by
  intro k hk
  obtain ⟨-, hlow⟩ := leRead_some h0
  obtain ⟨-, hhigh⟩ := leRead_some h1
  unfold headerByte
  split
  · next hk4 => exact hlow k hk4
  · have hread := hhigh (k - 4) (by omega)
    rwa [show o + 4 + (k - 4) = o + k by omega] at hread

/-- A header that decodes as a message holds the words VP.ALLOC writes for it. -/
theorem holdsHeader_of_message {c : VarConfig} {m : List Host.Cell} {o total : Nat}
    (hd : hdrDecode c m o = .ok (.message total len)) : HoldsHeader m o total len := by
  obtain ⟨w0, w1, h0, h1, hwords⟩ := hdrDecode_ok hd
  rw [headerOfWords_eq (leRead_some h1).1] at hwords
  split at hwords
  · split at hwords <;> cases hwords
  · split at hwords <;> cases hwords
    exact holdsHeader_of_words h0 h1

/-- A header that decodes as a sentinel holds the words VP.ALLOC writes for it. -/
theorem holdsHeader_of_sentinel {c : VarConfig} {m : List Host.Cell} {o : Nat}
    (hd : hdrDecode c m o = .ok .sentinel) : HoldsHeader m o c.block 0x80000000 := by
  obtain ⟨w0, w1, h0, h1, hwords⟩ := hdrDecode_ok hd
  rw [headerOfWords_eq (leRead_some h1).1] at hwords
  split at hwords
  · split at hwords
    · next hsentinel =>
      obtain ⟨rfl, rfl⟩ := hsentinel
      exact holdsHeader_of_words h0 h1
    · cases hwords
  · split at hwords <;> cases hwords

theorem HoldsHeader.storeRead_eq {m : List Host.Cell} {o total info a : Nat} (h : HoldsHeader m o total info)
    (hlow : o ≤ a) (hhigh : a < o + 8) : storeRead m a = some (headerByte total info (a - o)) := by
  have hread := h (a - o) (by omega)
  rwa [Nat.add_sub_cancel' hlow] at hread

/-- VP.ALLOC of the reservation's length returns its offset again and writes the bytes that stand there. -/
theorem Variable.Reserves.exec_vpAlloc_again (hres : s.var.Reserves len p) (hfault : s.var.fault = none)
    (h : exec (.vpAlloc len b) s = .next t) :
    t.resp = .vp (vpReserved p.off) ∧ SameStore s.var.mem t.var.mem := by
  obtain ⟨u, hu, -, -, hresp, -, -, -, -, -, -, hmem⟩ :=
    exec_vpAlloc_placed (b := b) hfault hres.placed fun _ => hres.inv.tail_header_fits
  obtain rfl : u = t := Host.Outcome.next.inj (hu.symm.trans h)
  refine ⟨hresp, fun a => ?_⟩
  have hmessage := holdsHeader_of_message (hres.inv.resv_header hres.resv)
  rw [hres.off, hres.total, hres.len] at hmessage
  rw [hmem]
  split
  · next hin => exact (hmessage.storeRead_eq hin.1 hin.2).symm
  · split
    · next hin =>
      obtain ⟨hwrap, hlow, hhigh⟩ := hin
      have hskip : s.var.resvOff ≠ s.var.tail := by
        obtain ⟨-, ⟨-, -, -, hno⟩ | ⟨hle, -, hlt, hoff, -⟩ | ⟨-, -, -, hno⟩⟩ := vPlaceAt_eq_some_iff.1 hres.placed
        · rw [hno] at hwrap; cases hwrap
        · rw [hres.off]
          omega
        · rw [hno] at hwrap; cases hwrap
      obtain ⟨-, hplace, -⟩ := hres.inv.resvOk hres.resv
      have hsentinel := holdsHeader_of_sentinel (hdrDecode_of_sentinelAt (hplace.resolve_left hskip).2)
      exact (hsentinel.storeRead_eq hlow hhigh).symm
    · rfl

end

end Sys2Proof.Machine

/-! ### The statements -/

namespace Sys2Proof.Proofs

open Sys2Proof.Machine

/-- Settles O50: the unread region is an exact sequence of segments and no command writes in it. A reservation is one
more segment, VP.PUSH moves the tail past it, VC.POP moves the head past the first one, and `VFrontView` shows the
first one's message. -/
theorem variableFifoRefinesAQueueOfMessages : Obligations.VariableFifoRefinesAQueueOfMessages := by
  intro i s t hinv h
  refine ⟨?_, ?_, fun hpush hpop => exec_keeps_var_queue hinv hpush hpop h,
    exec_faulted_keeps_var_queue h, ?_, ?_⟩
  · rintro a b rfl hfault hresv
    exact exec_vpPush_var_queue hinv h hfault hresv
  · rintro a rfl hfault
    exact exec_vcPop_var_queue hinv h hfault
  · rintro a x rfl hr
    have hshown := exec_vcFront_shown h hr
    obtain ⟨e, l, hunread, -⟩ := hinv.shown hshown
    exact ⟨⟨l, hunread⟩, hinv.head?_queue hshown⟩
  · rintro off b rfl hr
    obtain ⟨x, hshown, hbyte⟩ := exec_vcRead_byte h hr
    exact ⟨_, hinv.head?_queue hshown, hbyte⟩

/-- Settles O51: no command writes what is unread, none but POP moves the head, and the consumer's view of the tail
only moves forward. -/
theorem shownElementStaysUntilPop : Obligations.ShownElementStaysUntilPop :=
  fun _ _ _ ⟨hfixed, hvar⟩ h => ⟨fun hshown hpop => exec_keeps_shown_slot hfixed hshown hpop h,
    fun _ hshown hpop => exec_keeps_shown_message hvar hshown hpop h⟩

/-- Settles O16: `VPlace` is R177's tests, and each answer of it gives VP.ALLOC its effect. -/
theorem vpAllocPlacesAMessageOrReportsNoRoom : Obligations.VpAllocPlacesAMessageOrReportsNoRoom := by
  constructor
  · rintro c t h len tot rfl
    rfl
  · rintro len b s t h tot hfault rfl rfl rfl
    by_cases hle : s.var.headW ≤ s.var.tail
    · rw [if_pos hle]
      by_cases hfit : s.var.tail + totalOf s.var.cfg len < s.var.cfg.capacity ∨
          (s.var.tail + totalOf s.var.cfg len = s.var.cfg.capacity ∧ s.var.headW ≠ 0)
      · have hp : vPlace s.var len = some { off := s.var.tail, total := totalOf s.var.cfg len, wrap := false } :=
          vPlaceAt_eq_some_iff.2 ⟨rfl, .inl ⟨hle, hfit, rfl, rfl⟩⟩
        exact (if_pos hfit).mpr (exec_vpAlloc_placed hfault hp nofun)
      · refine (if_neg hfit).mpr ?_
        by_cases hwrap : totalOf s.var.cfg len < s.var.headW
        · have hp : vPlace s.var len = some { off := 0, total := totalOf s.var.cfg len, wrap := true } :=
            vPlaceAt_eq_some_iff.2 ⟨rfl, .inr (.inl ⟨hle, hfit, hwrap, rfl, rfl⟩)⟩
          exact (if_pos hwrap).mpr fun htail => exec_vpAlloc_placed hfault hp fun _ => htail
        · refine (if_neg hwrap).mpr (exec_vpAlloc_refused hfault ?_)
          exact vPlaceAt_eq_none_iff.2 (.inl ⟨hle, hfit, Nat.not_lt.1 hwrap⟩)
    · rw [if_neg hle]
      by_cases hfit : s.var.tail + totalOf s.var.cfg len < s.var.headW
      · have hp : vPlace s.var len = some { off := s.var.tail, total := totalOf s.var.cfg len, wrap := false } :=
          vPlaceAt_eq_some_iff.2 ⟨rfl, .inr (.inr ⟨Nat.not_le.1 hle, hfit, rfl, rfl⟩)⟩
        exact (if_pos hfit).mpr (exec_vpAlloc_placed hfault hp nofun)
      · refine (if_neg hfit).mpr (exec_vpAlloc_refused hfault ?_)
        exact vPlaceAt_eq_none_iff.2 (.inr ⟨Nat.not_le.1 hle, Nat.not_lt.1 hfit⟩)

/-- Settles O34: TOTAL and C are multiples of B, so a TOTAL above `C - B` is C at least and passes no test. -/
theorem oversizedMessagesAreNeverPlaced : Obligations.OversizedMessagesAreNeverPlaced := by
  refine ⟨fun c t h len _ hh hbig => vPlaceAt_oversized hh hbig, fun s len b hfault _ hbig => ?_⟩
  obtain ⟨t, hexec, -, -, hresp, -⟩ :=
    exec_vpAlloc_refused (b := b) hfault (vPlaceAt_oversized (t := s.var.tail) s.var.headW_lt hbig)
  exact ⟨t, hexec, hresp⟩

/-- Settles O35, by the tests a placement has passed. -/
theorem placementNeverEndsAtTheHead : Obligations.PlacementNeverEndsAtTheHead :=
  fun _ _ _ _ _ _ hh hp => ⟨(vPlaceAt_eq_some_iff.1 hp).1, vPlaceAt_fits hh hp⟩

/-- Settles O36: a TOTAL above `C - B` is oversized; one of `C - B` leaves a single block. -/
theorem largestMessageIsPlacedOnlyAtZeroOrOneBlock : Obligations.LargestMessageIsPlacedOnlyAtZeroOrOneBlock :=
  fun _ _ _ _ _ hh hta hha =>
    ⟨fun _ hp => vPlaceAt_total_le hh hp, fun hbig => vPlaceAt_largest_iff hh hta hha hbig⟩

/-- Settles O37: only R177's second test wraps, and aligned offsets that differ are a block apart. -/
theorem wrappedPlacementLeavesRoomForTheSentinel : Obligations.WrappedPlacementLeavesRoomForTheSentinel :=
  fun _ _ _ _ _ ht hta hha hp hwrap => vPlaceAt_wrap ht hta hha hp hwrap

/-- Settles O38, by the tests R177 makes with the head at the tail. -/
theorem emptyFifoPlacesUpToHalfTheCapacity : Obligations.EmptyFifoPlacesUpToHalfTheCapacity :=
  ⟨fun _ _ _ _ _ hhalf => vPlaceAt_empty_ne_none hhalf, fun _ _ hhalf => vPlaceAt_half_eq_none hhalf⟩

/-- Settles O39: on the arc to the tail a later head is nearer to the tail, and no test of R177 fails for it. -/
theorem placementSurvivesTheHeadMovingForward : Obligations.PlacementSurvivesTheHeadMovingForward :=
  fun _ _ _ _ _ _ ht hh1 hh2 harc hp => vPlaceAt_of_nearer ht hh1 hh2 ((cdist_add_cdist_iff hh1 hh2 ht).1 harc) hp

/-- Settles O41, by what the header at the head decodes to. -/
theorem visibilityNeedsTheWholeExtent : Obligations.VisibilityNeedsTheWholeExtent := by
  refine ⟨?_, fun v => rfl⟩
  rintro c m h tailR d rfl
  refine ⟨fun hd => if_pos hd, ?_, ?_, ?_⟩
  · intro e he hd
    simp only [vFrontViewAt, if_neg hd, he]
  · intro total len hm hd
    simp only [vFrontViewAt, if_neg hd, hm, visibleIf, Nat.zero_add]
  · intro hs hd
    refine ⟨fun hskip => ?_, fun hskip => ⟨?_, ?_, ?_⟩⟩
    · simp only [vFrontViewAt, if_neg hd, hs, if_pos hskip]
    · intro total len hm
      simp only [vFrontViewAt, if_neg hd, hs, if_neg (Nat.not_le.2 hskip), hm, visibleIf]
    · intro e he
      simp only [vFrontViewAt, if_neg hd, hs, if_neg (Nat.not_le.2 hskip), he]
    · intro hs'
      simp only [vFrontViewAt, if_neg hd, hs, if_neg (Nat.not_le.2 hskip), hs']

/-- Settles O48: under the invariant `VFrontView` never raises a fault and VP.ALLOC's part answers; a reset and the
other commands raise other codes. -/
theorem noRunMeetsAnInvalidHeader : Obligations.NoRunMeetsAnInvalidHeader := by
  intro s t hinv hfault h r hr
  obtain ⟨-, rfl⟩ | ⟨kind, rest, -, hreset⟩ | ⟨port, w, rest, i, -, -, hexec⟩ := step_next h
  · exact absurd (hfault.symm.trans hr) nofun
  · cases kind <;> cases hreset
    · exact absurd (hfault.symm.trans hr) nofun
    · cases hr
  · exact exec_ne_headerInvalid (s := { s with pending := rest }) hinv hfault hexec hr

/-- Settles O53: until the next VP.PUSH only the producer's view of the head moves, and a placement survives that; the
invariant keeps the reservation's headers in storage, so that writing them again changes nothing. -/
theorem repeatedAllocKeepsTheMessage : Obligations.RepeatedAllocKeepsTheMessage := by
  intro len b b' cmds s t u v hoff hinv ht hr hcmds hu hfault hv
  obtain ⟨p, rfl, htres⟩ := exec_vpAlloc_reserves hinv ht hr
  have hures := htres.of_execAll hcmds hu
  have hvres := hures.of_exec (by simp) (fun _ _ heq => by cases heq; rfl) hv
  obtain ⟨hresp, hmem⟩ := hures.exec_vpAlloc_again hfault hv
  exact ⟨hresp, htres.sameReservation hvres, hmem⟩

/-- Settles O17, by whether a reservation is held and the offset is in its payload. -/
theorem vpWriteStoresOnePayloadByte : Obligations.VpWriteStoresOnePayloadByte := by
  refine fun off b s hfault => ⟨fun hresv => varWEdge_faults hfault (vpWritePart_of_no_resv hresv off b),
    fun hresv hoff => varWEdge_faults hfault (vpWritePart_of_range hresv hoff b), fun hresv hoff haddr => ?_⟩
  obtain ⟨t, hexec, honly, hedge, htail, hresv', hmem⟩ := varWEdge_taken (w := vpWord s.var.cfg 2 off b)
    (vpWritePart_isVpPart off b) hfault (vpWritePart_ok.2 ⟨hresv, hoff, haddr, rfl, rfl⟩)
  exact ⟨t, hexec, honly, hedge, htail, hresv', fun a => (hmem a).trans (storeRead_storeWrite ..)⟩

/-- Settles O18, by whether a reservation is held. -/
theorem vpPushAdvancesTheTail : Obligations.VpPushAdvancesTheTail := by
  refine fun a b s hfault => ⟨fun hresv => ?_, fun hresv => varWEdge_faults hfault (vpPushPart_of_no_resv hresv)⟩
  obtain ⟨t, hexec, honly, hedge, htail, ⟨hresv', hoff, htotal, hlen⟩, hmem⟩ := varWEdge_taken
    (w := vpWord s.var.cfg 3 a b) vpPushPart_isVpPart hfault (vpPushPart_ok.2 ⟨hresv, rfl, rfl⟩)
  exact ⟨t, hexec, honly, hedge, htail, hresv', hoff, htotal, hlen, hmem⟩

/-- Settles O19, by what `VFrontView` gives. -/
theorem vcFrontShowsTheOldestMessage : Obligations.VcFrontShowsTheOldestMessage := by
  refine fun a s hfault => ⟨fun view hview => ?_, fun hview => varREdge_faults hfault (vcFrontPart_of_error hview)⟩
  cases view with
  | none =>
    obtain ⟨t, hexec, honly, hedge, hhead, hmem⟩ := varREdge_taken (w := vcWord 1 a) vcFrontPart_isVcPart hfault
      (vcFrontPart_ok.2 ⟨rfl, .inl ⟨hview, rfl⟩⟩)
    exact ⟨t, hexec, hedge, hhead, hmem, honly⟩
  | some x =>
    obtain ⟨t, hexec, honly, hedge, hhead, hmem⟩ := varREdge_taken (w := vcWord 1 a) vcFrontPart_isVcPart hfault
      (vcFrontPart_ok.2 ⟨rfl, .inr ⟨x, hview, rfl⟩⟩)
    exact ⟨t, hexec, hedge, hhead, hmem, honly⟩

/-- Settles O20, by what `VFrontView` gives, whether the offset is in the payload and whether its byte was written. -/
theorem vcReadReturnsOnePayloadByte : Obligations.VcReadReturnsOnePayloadByte := by
  refine fun off s hfault => ⟨fun hview => varREdge_faults hfault (vcReadPart_of_error hview off),
    fun hview => varREdge_faults hfault (vcReadPart_of_empty hview off), fun x hview =>
      ⟨fun hoff => varREdge_faults hfault (vcReadPart_of_range hview hoff), fun hoff haddr => ?_⟩⟩
  split
  · next hmem => exact varREdge_faults hfault (vcReadPart_of_unwritten hview hoff haddr hmem)
  · next b hmem =>
    exact varREdge_taken (vcReadPart_isVcPart off) hfault
      (vcReadPart_ok.2 ⟨rfl, x, b, hview, hoff, haddr, hmem, rfl⟩)

/-- Settles O21, by what `VFrontView` gives. -/
theorem vcPopAdvancesTheHead : Obligations.VcPopAdvancesTheHead := fun _ _ hfault =>
  ⟨fun hview => varREdge_faults hfault (vcPopPart_of_error hview),
    fun hview => varREdge_faults hfault (vcPopPart_of_empty hview),
    fun x hview => varREdge_taken vcPopPart_isVcPart hfault (vcPopPart_ok.2 ⟨x, hview, rfl, rfl⟩)⟩

end Sys2Proof.Proofs

/-!
PROOFS of the statements on the Gray code, the publish step and the frozen FIFO (43_gray_pointer_sync.md R230 to R233,
R254). The facts about the model come first; the statements are settled at the end.
-/

namespace Sys2Proof.Machine

/-! ### A faulted FIFO takes no edge (43_gray_pointer_sync.md R254) -/

section
variable {s : State} {i : Instr}

theorem exec_fixed_frozen (hk : i.port.kind = .fixedSlot) (hfault : s.fixed.fault ≠ none) :
    exec i s = .next { s with resp := .none } := by
  obtain hp | hp := Port.fixedSlot_cases hk
  · obtain ⟨part, -, hexec⟩ := exec_fp hp
    exact (hexec s s.var.cfg).trans (fixedWEdge_next.2 (.inl ⟨hfault, rfl⟩))
  · obtain ⟨part, -, hexec⟩ := exec_fc hp
    exact (hexec s s.var.cfg).trans (fixedREdge_next.2 (.inl ⟨hfault, rfl⟩))

theorem exec_var_frozen (hk : i.port.kind = .variableLength) (hfault : s.var.fault ≠ none) :
    exec i s = .next { s with resp := .none } := by
  obtain hp | hp := Port.variableLength_cases hk
  · obtain ⟨part, -, hexec⟩ := exec_vp hp
    exact (hexec s).trans (varWEdge_next.2 (.inl ⟨hfault, rfl⟩))
  · obtain ⟨part, -, hexec⟩ := exec_vc hp
    exact (hexec s).trans (varREdge_next.2 (.inl ⟨hfault, rfl⟩))

end

/-! ### The Gray code (43_gray_pointer_sync.md R230 to R232) -/

theorem testBit_bin2gray (x i : Nat) : (bin2gray x).testBit i = (x.testBit i ^^ x.testBit (i + 1)) := by
  rw [bin2gray, Nat.testBit_xor, Nat.testBit_shiftRight, Nat.add_comm]

theorem testBit_bin2gray_top {n x : Nat} (hx : x < 2 ^ n) (hn : 1 ≤ n) :
    (bin2gray x).testBit (n - 1) = x.testBit (n - 1) := by
  rw [testBit_bin2gray, Nat.sub_add_cancel hn, Nat.testBit_lt_two_pow hx, Bool.xor_false]

/-- Coding is linear in XOR. -/
theorem bin2gray_xor (x y : Nat) : bin2gray (x ^^^ y) = bin2gray x ^^^ bin2gray y := by
  simp only [bin2gray, Nat.shiftRight_xor_distrib]
  ac_rfl

theorem bin2gray_shiftRight (x k : Nat) : bin2gray (x >>> k) = bin2gray x >>> k := by
  rw [bin2gray, bin2gray, Nat.shiftRight_xor_distrib, ← Nat.shiftRight_add, ← Nat.shiftRight_add, Nat.add_comm]

theorem bin2gray_xorShifts (g k : Nat) : bin2gray (xorShifts k g) = xorShifts k (bin2gray g) := by
  induction k with
  | zero => exact bin2gray_zero
  | succ k ih => rw [xorShifts, xorShifts, bin2gray_xor, ih, bin2gray_shiftRight]

/-- Coding inverts decoding on n-bit values (R231). -/
theorem bin2gray_gray2bin {n g : Nat} (hg : g < 2 ^ n) : bin2gray (gray2bin n g) = g := by
  rw [gray2bin, Nat.mod_eq_of_lt hg, bin2gray_xorShifts, xorShifts_bin2gray, Nat.shiftRight_eq_div_pow,
    Nat.div_eq_of_lt hg, Nat.xor_zero]

/-- Each bit of the decoded value is the next higher one XOR the code's bit (R231). -/
theorem testBit_gray2bin_succ {n g : Nat} (hg : g < 2 ^ n) (i : Nat) :
    (gray2bin n g).testBit i = ((gray2bin n g).testBit (i + 1) ^^ g.testBit i) := by
  have hcode := testBit_bin2gray (gray2bin n g) i
  rw [bin2gray_gray2bin hg] at hcode
  rw [hcode, Bool.xor_comm ((gray2bin n g).testBit i), ← Bool.xor_assoc, Bool.xor_self, Bool.false_xor]

theorem testBit_xorShifts (k g i : Nat) :
    (xorShifts k g).testBit i = (List.range k).foldl (fun acc j => acc ^^ g.testBit (i + j)) false := by
  induction k with
  | zero => simp [xorShifts]
  | succ k ih =>
    rw [xorShifts, Nat.testBit_xor, ih, Nat.testBit_shiftRight, Nat.add_comm k, List.range_succ, List.foldl_append,
      List.foldl_cons, List.foldl_nil]

/-- Bits of the code at `n` and above add nothing to a decoded bit. -/
theorem testBit_xorShifts_add {n g : Nat} (hg : g < 2 ^ n) {k i : Nat} (hk : n ≤ k + i) (j : Nat) :
    (xorShifts (k + j) g).testBit i = (xorShifts k g).testBit i := by
  induction j with
  | zero => rfl
  | succ j ih =>
    have hhigh : g.testBit (k + j + i) = false :=
      Nat.testBit_lt_two_pow (hg.trans_le (Nat.pow_le_pow_right (by decide) (by omega)))
    rw [← Nat.add_assoc, xorShifts, Nat.testBit_xor, ih, Nat.testBit_shiftRight, hhigh, Bool.xor_false]

/-- Bit `i` of the decoded value is the XOR of `g[n-1:i]` (R231). -/
theorem testBit_gray2bin {n g i : Nat} (hg : g < 2 ^ n) (hi : i < n) :
    (gray2bin n g).testBit i = (List.range (n - i)).foldl (fun acc k => acc ^^ g.testBit (i + k)) false := by
  have hsplit : n = n - i + i := by omega
  rw [← testBit_xorShifts, ← testBit_xorShifts_add hg (j := i) hsplit.le, ← hsplit, gray2bin, Nat.mod_eq_of_lt hg]

/-- Counting up flips the lowest bits up to the lowest 0. -/
theorem exists_xor_succ (x : Nat) : ∃ i, x ^^^ (x + 1) = 2 ^ (i + 1) - 1 := by
  induction x using Nat.strongRecOn with
  | ind x ih =>
    obtain heven | hodd := Nat.mod_two_eq_zero_or_one x
    · refine ⟨0, ?_⟩
      have hhalf := Nat.xor_div_two (a := x) (b := x + 1)
      have hlow := Nat.xor_mod_two_eq (m := x) (n := x + 1)
      rw [show (x + 1) / 2 = x / 2 by omega, Nat.xor_self] at hhalf
      omega
    · obtain ⟨i, hi⟩ := ih (x / 2) (by omega)
      refine ⟨i + 1, ?_⟩
      have hhalf := Nat.xor_div_two (a := x) (b := x + 1)
      have hlow := Nat.xor_mod_two_eq (m := x) (n := x + 1)
      rw [show (x + 1) / 2 = x / 2 + 1 by omega, hi] at hhalf
      have hpos := Nat.two_pow_pos (i + 1)
      rw [Nat.pow_succ 2 (i + 1)]
      omega

theorem bin2gray_two_pow_sub_one (i : Nat) : bin2gray (2 ^ (i + 1) - 1) = 2 ^ i := by
  apply Nat.eq_of_testBit_eq
  intro j
  rw [testBit_bin2gray, Nat.testBit_two_pow_sub_one, Nat.testBit_two_pow_sub_one, Nat.testBit_two_pow]
  by_cases hj : i = j
  · simp [hj]
  · by_cases hlt : j < i
    · simp [hj, hlt, Nat.lt_succ_of_lt hlt]
    · simp [hj, hlt, show ¬j < i + 1 by omega]

theorem bin2gray_injective {x y : Nat} (h : bin2gray x = bin2gray y) : x = y := by
  have hx : x < 2 ^ (x + y) := Nat.lt_two_pow_self.trans_le (Nat.pow_le_pow_right (by decide) (by omega))
  have hy : y < 2 ^ (x + y) := Nat.lt_two_pow_self.trans_le (Nat.pow_le_pow_right (by decide) (by omega))
  rw [← gray2bin_bin2gray hx, h, gray2bin_bin2gray hy]

/-- The codes of successive n-bit values differ in one bit below n, the wrap included (R232). -/
theorem exists_bin2gray_xor_succ {n x : Nat} (hn : 1 ≤ n) (hx : x < 2 ^ n) :
    ∃ i < n, bin2gray x ^^^ bin2gray ((x + 1) % 2 ^ n) = 2 ^ i := by
  obtain ⟨k, rfl⟩ := Nat.exists_eq_add_of_le' hn
  by_cases hwrap : x + 1 = 2 ^ (k + 1)
  · refine ⟨k, Nat.lt_succ_self k, ?_⟩
    rw [hwrap, Nat.mod_self, bin2gray_zero, Nat.xor_zero, show x = 2 ^ (k + 1) - 1 by omega,
      bin2gray_two_pow_sub_one]
  · obtain ⟨i, hi⟩ := exists_xor_succ x
    have hlt : 2 ^ (i + 1) - 1 < 2 ^ (k + 1) := hi ▸ Nat.xor_lt_two_pow hx (by omega)
    refine ⟨i, ?_, ?_⟩
    · have hle := (Nat.pow_le_pow_iff_right (Nat.le_refl 2)).1 (show 2 ^ (i + 1) ≤ 2 ^ (k + 1) by omega)
      omega
    · rw [Nat.mod_eq_of_lt (by omega), ← bin2gray_xor, hi, bin2gray_two_pow_sub_one]

/-- A wrap that flips one bit of the code wraps at a power of two (R232). -/
theorem eq_two_pow_of_bin2gray_wrap {m i : Nat} (hm : 1 ≤ m) (h : bin2gray (m - 1) ^^^ bin2gray 0 = 2 ^ i) :
    m = 2 ^ (i + 1) := by
  rw [bin2gray_zero, Nat.xor_zero, ← bin2gray_two_pow_sub_one] at h
  have heq := bin2gray_injective h
  have hpos := Nat.two_pow_pos (i + 1)
  omega

/-! ### Distance and publish step (00_scope.md R14; 43_gray_pointer_sync.md R233) -/

theorem cdist_eq_emod {m : Nat} (hm : 0 < m) (a b : Nat) :
    (cdist a b m : Int) = ((b : Int) - (a : Int)) % (m : Int) := by
  have hle := (Nat.mod_lt a hm).le
  rw [cdist, Int.natCast_emod, Int.natCast_add, Int.natCast_sub hle, Int.natCast_emod,
    show (b : Int) + (m - a % m) = b - a % m + m by ring, Int.add_emod_right, Int.sub_emod,
    Int.emod_emod_of_dvd _ (dvd_refl _), ← Int.sub_emod]

theorem publishStep_self {pub ptr : Nat} (m : Nat) (h : pub = ptr) : publishStep pub ptr m = ptr :=
  (if_pos h).trans h

theorem publishStep_ne {pub ptr : Nat} (m : Nat) (h : pub ≠ ptr) : publishStep pub ptr m = (pub + 1) % m := if_neg h

/-- A publish step that is not at its pointer comes one position nearer (R233). -/
theorem cdist_publishStep_succ {pub ptr m : Nat} (hpub : pub < m) (hptr : ptr < m) (h : pub ≠ ptr) :
    cdist (publishStep pub ptr m) ptr m + 1 = cdist pub ptr m := by
  rw [publishStep_ne m h, cdist_succ_left hpub hptr h]

end Sys2Proof.Machine

/-! ### The statements -/

namespace Sys2Proof.Proofs

open Sys2Proof.Machine

/-- Settles O22: no edge of a faulted FIFO is taken. -/
theorem faultedInstanceStaysFrozen : Obligations.FaultedInstanceStaysFrozen :=
  fun _ _ => ⟨exec_fixed_frozen, exec_var_frozen⟩

/-- Settles O30: a bit of a XOR is the XOR of the bits, and bit `n` of an n-bit value is 0. -/
theorem grayCodeBits : Obligations.GrayCodeBits :=
  fun _ x hx => ⟨bin2gray_lt hx, testBit_bin2gray x, testBit_bin2gray_top hx⟩

/-- Settles O31: coding is linear and commutes with shifts, so it inverts decoding too; the bits of the decoded value
follow from those of its code. -/
theorem grayDecodingInvertsGrayCoding : Obligations.GrayDecodingInvertsGrayCoding := by
  refine fun n => ⟨fun x hx => gray2bin_bin2gray hx, fun g hg => ⟨gray2bin_lt n g, bin2gray_gray2bin hg, fun hn => ?_,
    fun i _ => testBit_gray2bin_succ hg i, fun i hi => testBit_gray2bin hg hi⟩⟩
  have htop := testBit_bin2gray_top (gray2bin_lt n g) hn
  rwa [bin2gray_gray2bin hg, eq_comm] at htop

/-- Settles O32: `x` and `x + 1` differ in the lowest bits up to the lowest 0 of `x`, whose code is one bit. -/
theorem successiveGrayCodesDifferInOneBit : Obligations.SuccessiveGrayCodesDifferInOneBit := by
  refine ⟨fun n x => exists_bin2gray_xor_succ, fun n hn => ?_, bin2gray_zero,
    fun m hm ⟨i, hi⟩ => ⟨i + 1, eq_two_pow_of_bin2gray_wrap hm hi⟩⟩
  obtain ⟨k, rfl⟩ := Nat.exists_eq_add_of_le' hn
  exact bin2gray_two_pow_sub_one k

/-- Settles O33: the sum that defines `cdist` is `b - a` up to multiples of the modulus, and a step from a position that
is not the pointer shortens the way to it by one. -/
theorem publishStepMovesOnePositionForward : Obligations.PublishStepMovesOnePositionForward :=
  ⟨fun a b _ hm => cdist_eq_emod hm a b, fun _ _ m hpub hptr => ⟨publishStep_lt hpub, publishStep_self m,
    fun hne => ⟨publishStep_ne m hne, cdist_publishStep_succ hpub hptr hne⟩⟩⟩

end Sys2Proof.Proofs

/-!
PROOFS of the statements on the chains around the ring (43_gray_pointer_sync.md R244, R245, R247, R248, R258): every
step keeps both invariants, published pointers stay near, views move forward and are exact in a settled FIFO. The
facts about the model come first; the statements are settled at the end.
-/

namespace Sys2Proof.Machine

/-! ### Publish step and synchroniser shift keep the fixed invariant (43_gray_pointer_sync.md R247) -/

section
variable {f g : Fixed}

theorem Fixed.Inv.tail_lt (hinv : f.Inv) : f.tail < f.cfg.slots := by
  obtain ⟨⟨htail, -⟩, -⟩ := hinv
  exact htail

theorem Fixed.Inv.head_lt (hinv : f.Inv) : f.head < f.cfg.slots := by
  obtain ⟨⟨-, -, -, hhead, -⟩, -⟩ := hinv
  exact hhead

theorem Fixed.Inv.published_lt (hinv : f.Inv) : f.wpub < f.cfg.slots ∧ f.rpub < f.cfg.slots := by
  obtain ⟨⟨-, hwpub, -, -, hrpub, -⟩, -⟩ := hinv
  exact ⟨hwpub, hrpub⟩

theorem Fixed.Inv.sync_length (hinv : f.Inv) : f.rsync.length = f.cfg.stages ∧ f.wsync.length = f.cfg.stages := by
  obtain ⟨⟨-, -, -, -, -, -, hrlength, -, hwlength, -⟩, -⟩ := hinv
  exact ⟨hrlength, hwlength⟩

theorem Fixed.Inv.grayAgrees (hinv : f.Inv) : f.GrayAgrees := by
  obtain ⟨-, hgray, -⟩ := hinv
  exact hgray

theorem Fixed.Inv.headW_room (hinv : f.Inv) : cdist f.headW f.tail f.cfg.slots ≤ f.cfg.slots - 1 := by
  obtain ⟨-, -, ⟨-, hroom⟩, -⟩ := hinv
  exact hroom

theorem Fixed.Inv.headW_mem (hinv : f.Inv) : f.headW ∈ f.rsync.map (gray2bin f.cfg.fAw) :=
  List.mem_map_of_mem (lastStage_mem hinv.sync_length.1 (fixed_stages_pos _))

theorem Fixed.Inv.tailR_mem (hinv : f.Inv) : f.tailR ∈ f.wsync.map (gray2bin f.cfg.fAw) :=
  List.mem_map_of_mem (lastStage_mem hinv.sync_length.2 (fixed_stages_pos _))

/-- No stage of the producer's synchroniser is farther from the tail than the last, its view of the head. -/
theorem Fixed.Inv.rsync_le_headW (hinv : f.Inv) :
    ∀ x ∈ f.rsync.map (gray2bin f.cfg.fAw), cdist x f.tail f.cfg.slots ≤ cdist f.headW f.tail f.cfg.slots := by
  rintro _ hx
  obtain ⟨g, hg, rfl⟩ := List.mem_map.1 hx
  exact le_lastStage (D := fun g => cdist (gray2bin f.cfg.fAw g) f.tail f.cfg.slots) hinv.sync_length.1
    (fixed_stages_pos _) ((List.pairwise_map (f := gray2bin f.cfg.fAw)).1 hinv.ordered.rsync_sorted) hg

/-- No stage of the consumer's synchroniser is farther from the tail than the last, its view of the tail. -/
theorem Fixed.Inv.wsync_le_tailR (hinv : f.Inv) :
    ∀ x ∈ f.wsync.map (gray2bin f.cfg.fAw), cdist x f.tail f.cfg.slots ≤ cdist f.tailR f.tail f.cfg.slots := by
  rintro _ hx
  obtain ⟨g, hg, rfl⟩ := List.mem_map.1 hx
  exact le_lastStage (D := fun g => cdist (gray2bin f.cfg.fAw g) f.tail f.cfg.slots) hinv.sync_length.2
    (fixed_stages_pos _) ((List.pairwise_map (f := gray2bin f.cfg.fAw)).1 hinv.ordered.wsync_sorted) hg

/-- At a write-domain edge the producer's view of the head moves nearer to the tail, or stays (R244). -/
theorem Fixed.Inv.headW_shift_le (hinv : f.Inv) :
    cdist (f.wTick f).headW f.tail f.cfg.slots ≤ cdist f.headW f.tail f.cfg.slots := by
  refine lastStage_shiftIn_le (D := fun g => cdist (gray2bin f.cfg.fAw g) f.tail f.cfg.slots) hinv.sync_length.1
    (fixed_stages_pos _) ((List.pairwise_map (f := gray2bin f.cfg.fAw)).1 hinv.ordered.rsync_sorted) fun x hx => ?_
  simp only [hinv.grayAgrees.2, gray2bin_bin2gray hinv.published_lt.2]
  exact hinv.ordered.rpub_le _ (List.mem_map_of_mem hx)

/-- A shift that samples the Gray code of a published pointer takes in the pointer. -/
theorem map_gray2bin_shiftIn {n pub : Nat} (hpub : pub < 2 ^ n) (stages : Nat) (sync : List Nat) :
    (shiftIn stages (bin2gray pub) sync).map (gray2bin n) = (pub :: sync.map (gray2bin n)).take stages := by
  rw [map_shiftIn, gray2bin_bin2gray hpub]

theorem Fixed.Inv.wTick (hinv : f.Inv) : (f.wTick f).Inv := by
  have hordered := hinv.ordered
  have hnear := hinv.headW_shift_le
  obtain ⟨hsized, ⟨hwgray, hrgray⟩, ⟨-, hroom⟩, hresvOk⟩ := hinv
  obtain ⟨htail, hwpub, -, hhead, hrpub, hrgrayLt, hrlength, hrsync, hwlength, hwsync, hmem⟩ := hsized
  have hstep : publishStep f.wpub f.tail f.cfg.slots < f.cfg.slots := publishStep_lt hwpub
  have hsized : (f.wTick f).Sized := ⟨htail, hstep, bin2gray_lt hstep, hhead, hrpub, hrgrayLt,
    shiftIn_length hrlength, shiftIn_lt hrgrayLt hrsync, hwlength, hwsync, hmem⟩
  have hordered : (f.wTick f).Ordered := by
    have hshift := hordered.writeShift f.cfg.stages (cdist_publishStep_le hwpub htail)
    rwa [← map_gray2bin_shiftIn hrpub, ← hrgray] at hshift
  exact ⟨hsized, ⟨rfl, hrgray⟩, ⟨(Fixed.chain_eq_cdist_iff_ordered hsized).2 hordered, hnear.trans hroom⟩,
    fun hresv => (Nat.add_le_add_right hnear 1).trans (hresvOk hresv)⟩

theorem Fixed.Inv.rTick (hinv : f.Inv) : (f.rTick f).Inv := by
  have hordered := hinv.ordered
  obtain ⟨hsized, ⟨hwgray, hrgray⟩, ⟨-, hroom⟩, hresvOk⟩ := hinv
  obtain ⟨htail, hwpub, hwgrayLt, hhead, hrpub, -, hrlength, hrsync, hwlength, hwsync, hmem⟩ := hsized
  have hstep : publishStep f.rpub f.head f.cfg.slots < f.cfg.slots := publishStep_lt hrpub
  have hsized : (f.rTick f).Sized := ⟨htail, hwpub, hwgrayLt, hhead, hstep, bin2gray_lt hstep,
    hrlength, hrsync, shiftIn_length hwlength, shiftIn_lt hwgrayLt hwsync, hmem⟩
  have hordered : (f.rTick f).Ordered := by
    obtain ⟨hbehind, hnearer⟩ := cdist_between hrpub hhead htail (cdist_publishStep_le hrpub hhead) hordered.head_le
    have hshift := hordered.readShift f.cfg.stages hnearer hbehind
    rwa [← map_gray2bin_shiftIn hwpub, ← hwgray] at hshift
  exact ⟨hsized, ⟨hwgray, rfl⟩, ⟨(Fixed.chain_eq_cdist_iff_ordered hsized).2 hordered, hroom⟩, hresvOk⟩

/-! ### Command parts keep the fixed invariant (43_gray_pointer_sync.md R247; 10_state.md R49)

Each part is taken on the state after the tick, where it answers what it answers before it. -/

/-- Taking a slot that is not full as reserved keeps the invariant. -/
theorem Fixed.Inv.reserve (hinv : f.Inv) (hfree : cdist f.headW f.tail f.cfg.slots + 1 ≤ f.cfg.slots - 1) :
    Fixed.Inv { f with resv := true } := by
  obtain ⟨hsized, hgray, hchain, -⟩ := hinv
  exact ⟨hsized, hgray, hchain, fun _ => hfree⟩

/-- Storing a value of the width in the slot at the tail keeps the invariant. -/
theorem Fixed.Inv.store (hinv : f.Inv) {data : Nat} (hdata : data < 2 ^ f.cfg.fW) :
    Fixed.Inv { f with mem := storeWrite f.mem f.tail data } := by
  obtain ⟨⟨htail, hwpub, hwgray, hhead, hrpub, hrgray, hrlength, hrsync, hwlength, hwsync, hwf, hwithin, hvalues⟩,
    hgray, hchain, hresvOk⟩ := hinv
  refine ⟨⟨htail, hwpub, hwgray, hhead, hrpub, hrgray, hrlength, hrsync, hwlength, hwsync,
    Store.wf_storeWrite hwf _ _, Store.within_storeWrite hwithin htail _, fun c hc => ?_⟩, hgray, hchain, hresvOk⟩
  exact (mem_storeWrite hc).elim (fun heq => heq ▸ hdata) (hvalues c)

/-- Pushing the reserved slot keeps the invariant: the reservation holds the room for it. -/
theorem Fixed.Inv.push (hinv : f.Inv) (hresv : f.resv = true) :
    Fixed.Inv { f with tail := (f.tail + 1) % f.cfg.slots, resv := false } := by
  have hfar := hinv.rsync_le_headW
  have hrpub := hinv.ordered.rpub_le _ hinv.headW_mem
  have hordered := hinv.ordered
  have hslots := slots_pos f.cfg
  obtain ⟨⟨-, hsized⟩, hgray, -, hresvOk⟩ := hinv
  have hroom := hresvOk hresv
  have hlt : cdist f.headW f.tail f.cfg.slots + 1 < f.cfg.slots := by omega
  have hordered : Fixed.Ordered { f with tail := (f.tail + 1) % f.cfg.slots, resv := false } :=
    hordered.moveTail (fun x hx => by have := hfar x hx; omega) (by omega)
  have hsized : Fixed.Sized { f with tail := (f.tail + 1) % f.cfg.slots, resv := false } :=
    ⟨Nat.mod_lt _ hslots, hsized⟩
  exact ⟨hsized, hgray, ⟨(Fixed.chain_eq_cdist_iff_ordered hsized).2 hordered,
    (cdist_succ_right hlt).trans_le hroom⟩, nofun⟩

/-- Popping a slot that is shown keeps the invariant. -/
theorem Fixed.Inv.pop (hinv : f.Inv) (hshown : f.head ≠ f.tailR) :
    Fixed.Inv { f with head := (f.head + 1) % f.cfg.slots } := by
  have hne := hinv.head_ne_tail hshown
  have hmoved := cdist_succ_left hinv.head_lt hinv.tail_lt hne
  have hvisible := cdist_add_cdist hinv.head_lt f.tailR_lt hinv.tail_lt hinv.tailR_le
  have hcount : cdist f.head f.tailR f.cfg.slots ≠ 0 := fun h =>
    hshown ((cdist_eq_zero hinv.head_lt f.tailR_lt).1 h)
  have hbehind : cdist f.tailR f.tail f.cfg.slots ≤ cdist ((f.head + 1) % f.cfg.slots) f.tail f.cfg.slots := by omega
  have hordered : Fixed.Ordered { f with head := (f.head + 1) % f.cfg.slots } :=
    hinv.ordered.moveHead (hmoved ▸ Nat.le_succ _) (fun x hx => (hinv.wsync_le_tailR x hx).trans hbehind)
      ((hinv.ordered.wpub_le _ hinv.tailR_mem).trans hbehind)
  obtain ⟨⟨htail, hwpub, hwgray, -, hsized⟩, hgray, ⟨-, hroom⟩, hresvOk⟩ := hinv
  have hsized : Fixed.Sized { f with head := (f.head + 1) % f.cfg.slots } :=
    ⟨htail, hwpub, hwgray, Nat.mod_lt _ (slots_pos _), hsized⟩
  exact ⟨hsized, hgray, ⟨(Fixed.chain_eq_cdist_iff_ordered hsized).2 hordered, hroom⟩, hresvOk⟩

theorem fpAllocPart_wTick_keeps_inv (hinv : f.Inv) {r : FpResp} (h : fpAllocPart f = .ok (g, r)) :
    (g.wTick f).Inv := by
  obtain ⟨hfree, rfl, -⟩ | ⟨-, rfl, -⟩ := fpAllocPart_ok.1 h
  · have hroom := hinv.headW_room
    have hfull : cdist f.headW f.tail f.cfg.slots ≠ f.cfg.slots - 1 := fun hfull => hfree <| by
      have hmove := add_cdist_mod f.headW_lt hinv.tail_lt
      rw [← hmove, hfull, Nat.mod_add_mod, Nat.add_assoc, Nat.sub_add_cancel (slots_pos _), Nat.add_mod_right,
        Nat.mod_eq_of_lt f.headW_lt]
    have hspace : cdist f.headW f.tail f.cfg.slots + 1 ≤ f.cfg.slots - 1 := by omega
    exact hinv.wTick.reserve ((Nat.add_le_add_right hinv.headW_shift_le 1).trans hspace)
  · exact hinv.wTick

theorem fpWritePart_wTick_keeps_inv (hinv : f.Inv) {data : Nat} (hdata : data < 2 ^ f.cfg.fW) {r : FpResp}
    (h : fpWritePart f data = .ok (g, r)) : (g.wTick f).Inv := by
  obtain ⟨-, -, rfl, -⟩ := fpWritePart_ok.1 h
  exact hinv.wTick.store hdata

theorem fpPushPart_wTick_keeps_inv (hinv : f.Inv) {r : FpResp} (h : fpPushPart f = .ok (g, r)) :
    (g.wTick f).Inv := by
  obtain ⟨hresv, rfl, -⟩ := fpPushPart_ok.1 h
  exact hinv.wTick.push hresv

theorem fcPopPart_rTick_keeps_inv (hinv : f.Inv) {r : FcResp} (h : fcPopPart f = .ok (g, r)) :
    (g.rTick f).Inv := by
  obtain ⟨hshown, rfl, -⟩ := fcPopPart_ok.1 h
  refine hinv.rTick.pop fun heq => hshown ?_
  have hgrows : cdist f.head f.tailR f.cfg.slots ≤ cdist f.head (f.rTick f).tailR f.cfg.slots :=
    cdist_le_of_nearer hinv.head_lt f.tailR_lt (f.rTick f).tailR_lt hinv.tail_lt hinv.tailR_shift_le hinv.tailR_le
  rw [← heq, Fixed.rTick_head, cdist_self hinv.head_lt] at hgrows
  exact (cdist_eq_zero hinv.head_lt f.tailR_lt).1 (Nat.le_zero.1 hgrows)

end

/-! ### Every step keeps both invariants (43_gray_pointer_sync.md R247, R248) -/

section
variable {s t : State} {i : Instr} {w : Nat}

theorem fixedWEdge_keeps_inv {part : Except Stop (Fixed × FpResp)} (hinv : s.fixed.Inv)
    (hpart : ∀ f r, part = .ok (f, r) → (f.wTick s.fixed).Inv) (h : fixedWEdge s w part = .next t) : t.fixed.Inv := by
  obtain ⟨-, rfl⟩ | ⟨-, code, -, rfl⟩ | ⟨-, f, r, hok, rfl⟩ := fixedWEdge_next.1 h
  · exact hinv
  · exact hinv
  · exact hpart f r hok

theorem fixedREdge_keeps_inv {part : Except Stop (Fixed × FcResp)} (hinv : s.fixed.Inv)
    (hpart : ∀ f r, part = .ok (f, r) → (f.rTick s.fixed).Inv) (h : fixedREdge s w part = .next t) : t.fixed.Inv := by
  obtain ⟨-, rfl⟩ | ⟨-, code, -, rfl⟩ | ⟨-, f, r, hok, rfl⟩ := fixedREdge_next.1 h
  · exact hinv
  · exact hinv
  · exact hpart f r hok

theorem exec_keeps_fixed_inv (hinv : s.fixed.Inv) (hi : i.WellFormed s.fixed.cfg s.var.cfg)
    (h : exec i s = .next t) : t.fixed.Inv := by
  cases i with
  | fpNop data =>
    refine fixedWEdge_keeps_inv (w := fpWord 0 data) (part := fpNopPart s.fixed) hinv (fun f r hok => ?_) h
    rw [(fpNopPart_ok.1 hok).1]
    exact hinv.wTick
  | fpAlloc data => exact fixedWEdge_keeps_inv hinv (fun _ _ => fpAllocPart_wTick_keeps_inv hinv) h
  | fpWrite data => exact fixedWEdge_keeps_inv hinv (fun _ _ => fpWritePart_wTick_keeps_inv hinv hi) h
  | fpPush data => exact fixedWEdge_keeps_inv hinv (fun _ _ => fpPushPart_wTick_keeps_inv hinv) h
  | fcNop =>
    refine fixedREdge_keeps_inv (w := fcWord 0) (part := fcNopPart s.fixed) hinv (fun f r hok => ?_) h
    rw [(fcNopPart_ok.1 hok).1]
    exact hinv.rTick
  | fcFront =>
    refine fixedREdge_keeps_inv hinv (fun f r hok => ?_) h
    rw [(fcFrontPart_ok.1 hok).1]
    exact hinv.rTick
  | fcPop => exact fixedREdge_keeps_inv hinv (fun _ _ => fcPopPart_rTick_keeps_inv hinv) h
  | fcReserved => exact fixedREdge_keeps_inv (w := fcWord 3) (part := fcReservedPart s.fixed) hinv (fun _ _ => nofun) h
  | _ =>
    rw [exec_var_keeps_fixed rfl h]
    exact hinv

/-- Reset empties the FIFO and keeps its storage (70_reset_and_hazards.md R302). -/
theorem Fixed.Inv.doReset {f : Fixed} (hinv : f.Inv) : f.doReset.Inv := by
  obtain ⟨⟨-, -, -, -, -, -, -, -, -, -, hmem⟩, -⟩ := hinv
  obtain ⟨⟨htail, hwpub, hwgray, hhead, hrpub, hrgray, hrlength, hrsync, hwlength, hwsync, -⟩, hinv⟩ :=
    Fixed.inv_powerUp f.cfg
  exact ⟨⟨htail, hwpub, hwgray, hhead, hrpub, hrgray, hrlength, hrsync, hwlength, hwsync, hmem⟩, hinv⟩

/-- Reset empties the FIFO and keeps its storage (70_reset_and_hazards.md R302). -/
theorem Variable.Inv.doReset {v : Variable} (hinv : v.Inv) : v.doReset.Inv := by
  have hwf := hinv.store_wf
  have hwithin := hinv.store_within
  obtain ⟨hsized, haligned, hgray, hchain, -, -⟩ := Variable.inv_powerUp v.cfg
  obtain ⟨htail, hoff, htotal, hlen, hwpub, hwgray, hhead, hrpub, hrgray, hrlength, hrsync, hwlength, hwsync, -⟩ :=
    hsized
  refine ⟨⟨htail, hoff, htotal, hlen, hwpub, hwgray, hhead, hrpub, hrgray, hrlength, hrsync, hwlength, hwsync, hwf,
    hwithin⟩, haligned, hgray, hchain, nofun, ?_⟩
  simp [Variable.unread, cdist_self (capacity_pos v.cfg)]

theorem step_keeps_fixed_inv (hinv : s.fixed.Inv) (h : step s = .next t) : t.fixed.Inv := by
  obtain ⟨-, rfl⟩ | ⟨kind, rest, -, hreset⟩ | ⟨port, w, rest, i, -, hd, hexec⟩ := step_next h
  · exact hinv
  · cases kind <;> cases hreset
    · exact hinv.doReset
    · exact hinv
  · exact exec_keeps_fixed_inv (s := { s with pending := rest }) hinv (decode_wellFormed hd) hexec

theorem step_keeps_var_inv (hinv : s.var.Inv) (h : step s = .next t) : t.var.Inv := by
  obtain ⟨-, rfl⟩ | ⟨kind, rest, -, hreset⟩ | ⟨port, w, rest, i, -, -, hexec⟩ := step_next h
  · exact hinv
  · cases kind <;> cases hreset
    · exact hinv
    · exact hinv.doReset
  · exact exec_keeps_var_inv (s := { s with pending := rest }) hinv hexec

/-! ### Published pointers of the fixed FIFO stay near (43_gray_pointer_sync.md R245) -/

/-- A pointer that moves one position at most, with a published pointer near it that takes a publish step, is near its
published pointer again. -/
theorem publishStep_near {pub ptr ptr' m : Nat} (hnear : pub = ptr ∨ (pub + 1) % m = ptr)
    (hmove : ptr' = ptr ∨ ptr' = (ptr + 1) % m) :
    publishStep pub ptr m = ptr' ∨ (publishStep pub ptr m + 1) % m = ptr' := by
  have hstep : publishStep pub ptr m = ptr := by
    by_cases heq : pub = ptr
    · exact publishStep_self m heq
    · rw [publishStep_ne m heq]
      exact hnear.resolve_left heq
  rw [hstep]
  exact hmove.imp Eq.symm Eq.symm

/-- A command moves the tail one position at most (41_fixed_slot_fifo.md R136). -/
theorem exec_fixed_tail_moves (h : exec i s = .next t) :
    t.fixed.tail = s.fixed.tail ∨
      (s.fixed.resv = true ∧ t.fixed.tail = (s.fixed.tail + 1) % s.fixed.cfg.slots) := by
  cases i with
  | fpPush data =>
    obtain ⟨-, rfl⟩ | ⟨-, code, -, rfl⟩ | ⟨-, f, r, hok, rfl⟩ := fixedWEdge_next.1 h
    · exact .inl rfl
    · exact .inl rfl
    · obtain ⟨hresv, rfl, -⟩ := fpPushPart_ok.1 hok
      exact .inr ⟨hresv, rfl⟩
  | _ => exact .inl (exec_keeps_fixed_tail (by simp) h)

/-- A command moves the head one position at most (41_fixed_slot_fifo.md R139). -/
theorem exec_fixed_head_moves (h : exec i s = .next t) :
    t.fixed.head = s.fixed.head ∨
      (s.fixed.head ≠ s.fixed.tailR ∧ t.fixed.head = (s.fixed.head + 1) % s.fixed.cfg.slots) := by
  cases i with
  | fcPop =>
    obtain ⟨-, rfl⟩ | ⟨-, code, -, rfl⟩ | ⟨-, f, r, hok, rfl⟩ := fixedREdge_next.1 h
    · exact .inl rfl
    · exact .inl rfl
    · obtain ⟨hshown, rfl, -⟩ := fcPopPart_ok.1 hok
      exact .inr ⟨hshown, rfl⟩
  | _ => exact .inl (exec_keeps_fixed_head (by simp) h)

theorem exec_keeps_publishedNear (hnear : s.fixed.PublishedNear) (h : exec i s = .next t) :
    t.fixed.PublishedNear := by
  obtain ⟨hwnear, hrnear⟩ := hnear
  have htail := (exec_fixed_tail_moves h).imp_right And.right
  have hhead := (exec_fixed_head_moves h).imp_right And.right
  cases hp : i.port with
  | fp =>
    obtain ⟨part, hpart, hexec⟩ := exec_fp hp
    obtain ⟨-, rfl⟩ | ⟨-, code, -, rfl⟩ | ⟨-, f, r, hok, rfl⟩ := fixedWEdge_next.1 (hexec s s.var.cfg ▸ h)
    · exact ⟨hwnear, hrnear⟩
    · exact ⟨hwnear, hrnear⟩
    · obtain ⟨tail, resv, mem, rfl⟩ := hpart _ _ _ hok
      exact ⟨publishStep_near hwnear htail, hrnear⟩
  | fc =>
    obtain ⟨part, hpart, hexec⟩ := exec_fc hp
    obtain ⟨-, rfl⟩ | ⟨-, code, -, rfl⟩ | ⟨-, f, r, hok, rfl⟩ := fixedREdge_next.1 (hexec s s.var.cfg ▸ h)
    · exact ⟨hwnear, hrnear⟩
    · exact ⟨hwnear, hrnear⟩
    · obtain ⟨head, rfl⟩ := hpart _ _ _ hok
      exact ⟨hwnear, publishStep_near hrnear hhead⟩
  | vp | vc =>
    rw [exec_var_keeps_fixed (by rw [hp]; rfl) h]
    exact ⟨hwnear, hrnear⟩

theorem step_keeps_publishedNear (hnear : s.fixed.PublishedNear) (h : step s = .next t) : t.fixed.PublishedNear := by
  obtain ⟨-, rfl⟩ | ⟨kind, rest, -, hreset⟩ | ⟨port, w, rest, i, -, -, hexec⟩ := step_next h
  · exact hnear
  · cases kind <;> cases hreset
    · exact ⟨.inl rfl, .inl rfl⟩
    · exact hnear
  · exact exec_keeps_publishedNear (s := { s with pending := rest }) hnear hexec

/-! ### Views move forward (43_gray_pointer_sync.md R244) -/

/-- A position that comes nearer to the tail without passing `p` comes nearer to `p`. -/
theorem cdist_forward {a b p t m : Nat} (ha : a < m) (hb : b < m) (hp : p < m) (ht : t < m)
    (hnear : cdist b t m ≤ cdist a t m) (hbehind : cdist p t m ≤ cdist b t m) :
    cdist a b m + cdist b p m = cdist a p m := by
  have hap := cdist_add_cdist ha hp ht (hbehind.trans hnear)
  have hbp := cdist_add_cdist hb hp ht hbehind
  exact cdist_add_cdist ha hb hp (by omega)

theorem cdist_forward_refl {a p m : Nat} (ha : a < m) : cdist a a m + cdist a p m = cdist a p m := by
  rw [cdist_self ha, Nat.zero_add]

/-- A read-domain command leaves the producer's views of the head. -/
theorem exec_read_keeps_headW (hd : i.port.domain = .read) (h : exec i s = .next t) :
    t.fixed.headW = s.fixed.headW ∧ t.var.headW = s.var.headW := by
  obtain ⟨hfixedCfg, hvarCfg⟩ := exec_keeps_cfg h
  obtain ⟨⟨-, -, -, -, hfixed⟩, ⟨-, -, -, -, hvar⟩⟩ := exec_read_sameWriteSide hd h
  exact ⟨by rw [Fixed.headW, Fixed.headW, hfixed, hfixedCfg], by rw [Variable.headW, Variable.headW, hvar, hvarCfg]⟩

/-- A write-domain command leaves the consumer's views of the tail. -/
theorem exec_write_keeps_tailR (hd : i.port.domain = .write) (h : exec i s = .next t) :
    t.fixed.tailR = s.fixed.tailR ∧ t.var.tailR = s.var.tailR := by
  obtain ⟨hfixedCfg, hvarCfg⟩ := exec_keeps_cfg h
  obtain ⟨⟨-, -, -, hfixed⟩, ⟨-, -, -, hvar⟩⟩ := exec_write_sameReadSide hd h
  exact ⟨by rw [Fixed.tailR, Fixed.tailR, hfixed, hfixedCfg], by rw [Variable.tailR, Variable.tailR, hvar, hvarCfg]⟩

/-- A write-domain command leaves the fixed producer's view of the head, or moves it by one shift. -/
theorem exec_write_fixed_headW (hd : i.port.domain = .write) (h : exec i s = .next t) :
    t.fixed.headW = s.fixed.headW ∨ t.fixed.headW = (s.fixed.wTick s.fixed).headW := by
  obtain hp | hp := Port.write_cases hd
  · obtain ⟨part, hpart, hexec⟩ := exec_fp hp
    obtain ⟨-, rfl⟩ | ⟨-, code, -, rfl⟩ | ⟨-, f, r, hok, rfl⟩ := fixedWEdge_next.1 (hexec s s.var.cfg ▸ h)
    · exact .inl rfl
    · exact .inl rfl
    · obtain ⟨tail, resv, mem, rfl⟩ := hpart _ _ _ hok
      exact .inr rfl
  · exact .inl (by rw [exec_var_keeps_fixed (by rw [hp]; rfl) h])

/-- The producer's view moves forward toward the head: at a write edge, which leaves the head. -/
theorem exec_fixed_headW_forward (hinv : s.fixed.Inv) (h : exec i s = .next t) :
    cdist s.fixed.headW t.fixed.headW s.fixed.cfg.slots + cdist t.fixed.headW t.fixed.head s.fixed.cfg.slots =
      cdist s.fixed.headW t.fixed.head s.fixed.cfg.slots := by
  cases hd : i.port.domain with
  | write =>
    obtain ⟨⟨hhead, -⟩, -⟩ := exec_write_sameReadSide hd h
    obtain heq | heq := exec_write_fixed_headW hd h <;> rw [heq, hhead]
    · exact cdist_forward_refl s.fixed.headW_lt
    · exact cdist_forward s.fixed.headW_lt (s.fixed.wTick s.fixed).headW_lt hinv.head_lt hinv.tail_lt
        hinv.headW_shift_le hinv.wTick.cdist_head_tail_le
  | read =>
    rw [(exec_read_keeps_headW hd h).1]
    exact cdist_forward_refl s.fixed.headW_lt

/-- The consumer's view moves forward toward the tail: at a read edge, which leaves the tail. -/
theorem exec_fixed_tailR_forward (hinv : s.fixed.Inv) (h : exec i s = .next t) :
    cdist s.fixed.tailR t.fixed.tailR s.fixed.cfg.slots + cdist t.fixed.tailR t.fixed.tail s.fixed.cfg.slots =
      cdist s.fixed.tailR t.fixed.tail s.fixed.cfg.slots := by
  cases hd : i.port.domain with
  | write =>
    rw [(exec_write_keeps_tailR hd h).1]
    exact cdist_forward_refl s.fixed.tailR_lt
  | read =>
    obtain ⟨⟨htail, -⟩, -⟩ := exec_read_sameWriteSide hd h
    obtain heq | heq := exec_fixed_tailR h <;> rw [heq, htail]
    · exact cdist_forward_refl s.fixed.tailR_lt
    · exact cdist_add_cdist s.fixed.tailR_lt (gray2bin_lt _ _) hinv.tail_lt hinv.tailR_shift_le

/-- The producer's view moves forward toward the head: at a write edge, which leaves the head. -/
theorem exec_var_headW_forward (hinv : s.var.Inv) (h : exec i s = .next t) :
    cdist s.var.headW t.var.headW s.var.cfg.capacity + cdist t.var.headW t.var.head s.var.cfg.capacity =
      cdist s.var.headW t.var.head s.var.cfg.capacity := by
  cases hd : i.port.domain with
  | write =>
    obtain ⟨-, ⟨hhead, -⟩⟩ := exec_write_sameReadSide hd h
    obtain heq | heq := exec_var_headW h <;> rw [heq, hhead]
    · exact cdist_forward_refl s.var.headW_lt
    · exact cdist_forward s.var.headW_lt (s.var.offsetOf_lt _) hinv.head_lt hinv.tail_lt
        hinv.headW_shift_le hinv.wTick.cdist_head_tail_le
  | read =>
    rw [(exec_read_keeps_headW hd h).2]
    exact cdist_forward_refl s.var.headW_lt

/-- The consumer's view moves forward toward the tail: at a read edge, which leaves the tail. -/
theorem exec_var_tailR_forward (hinv : s.var.Inv) (h : exec i s = .next t) :
    cdist s.var.tailR t.var.tailR s.var.cfg.capacity + cdist t.var.tailR t.var.tail s.var.cfg.capacity =
      cdist s.var.tailR t.var.tail s.var.cfg.capacity := by
  cases hd : i.port.domain with
  | write =>
    rw [(exec_write_keeps_tailR hd h).2]
    exact cdist_forward_refl s.var.tailR_lt
  | read =>
    obtain ⟨-, ⟨htail, -⟩⟩ := exec_read_sameWriteSide hd h
    obtain heq | heq := exec_var_tailR h <;> rw [heq, htail]
    · exact cdist_forward_refl s.var.tailR_lt
    · exact cdist_add_cdist s.var.tailR_lt (s.var.offsetOf_lt _) hinv.tail_lt hinv.tailR_shift_le

end

/-! ### Settled views (43_gray_pointer_sync.md R258) -/

/-- Where every stage holds a value, so does the stage a view is decoded from. -/
theorem lastStage_of_forall {stages g : Nat} {sync : List Nat} (hlength : sync.length = stages) (hstages : 0 < stages)
    (h : ∀ x ∈ sync, x = g) : lastStage stages sync = g :=
  h _ (lastStage_mem hlength hstages)

theorem Fixed.Settled.views {f : Fixed} (hsettled : f.Settled) (hsized : f.Sized) (hgray : f.GrayAgrees) :
    f.tailR = f.tail ∧ f.headW = f.head := by
  obtain ⟨htail, hhead, hwsync, hrsync⟩ := hsettled
  obtain ⟨hwgray, hrgray⟩ := hgray
  obtain ⟨-, hwpub, -, -, hrpub, -, hrlength, -, hwlength, -⟩ := hsized
  constructor
  · rw [Fixed.tailR, lastStage_of_forall hwlength (fixed_stages_pos _) hwsync, hwgray, gray2bin_bin2gray hwpub, htail]
  · rw [Fixed.headW, lastStage_of_forall hrlength (fixed_stages_pos _) hrsync, hrgray, gray2bin_bin2gray hrpub, hhead]

theorem Variable.Settled.views {v : Variable} (hsettled : v.Settled) (hsized : v.Sized) (hgray : v.GrayAgrees) :
    v.tailR = v.tail ∧ v.headW = v.head := by
  obtain ⟨htail, hhead, hwsync, hrsync⟩ := hsettled
  obtain ⟨hwgray, hrgray⟩ := hgray
  obtain ⟨-, -, -, -, hwpub, -, -, hrpub, -, hrlength, -, hwlength, -⟩ := hsized
  constructor
  · rw [Variable.tailR, lastStage_of_forall hwlength (var_stages_pos _) hwsync, hwgray, gray2bin_bin2gray hwpub, htail]
  · rw [Variable.headW, lastStage_of_forall hrlength (var_stages_pos _) hrsync, hrgray, gray2bin_bin2gray hrpub, hhead]

end Sys2Proof.Machine

/-! ### The statements -/

namespace Sys2Proof.Proofs

open Sys2Proof.Machine

/-- Settles O42: the tick keeps the chain in order, each command part keeps it on the state after the tick, and Reset
leaves an empty FIFO. -/
theorem everyStepKeepsTheFixedChain : Obligations.EveryStepKeepsTheFixedChain := fun _ _ => step_keeps_fixed_inv

/-- Settles O43: a command keeps the variable invariant, and Reset leaves an empty FIFO. -/
theorem everyStepKeepsTheVariableChain : Obligations.EveryStepKeepsTheVariableChain := fun _ _ => step_keeps_var_inv

/-- Settles O44: a publish step catches up with the pointer before the command moves it by one position. -/
theorem everyStepKeepsPublishedPointersNear : Obligations.EveryStepKeepsPublishedPointersNear :=
  fun _ _ _ => step_keeps_publishedNear

/-- Settles O45: a view moves at an edge of its own domain alone, by a shift that brings it nearer to the tail, and at
that edge the pointer it stands for stays. -/
theorem viewsOnlyMoveForward : Obligations.ViewsOnlyMoveForward :=
  fun _ _ _ ⟨hfixed, hvar⟩ h => ⟨exec_fixed_headW_forward hfixed h, exec_fixed_tailR_forward hfixed h,
    exec_var_headW_forward hvar h, exec_var_tailR_forward hvar h⟩

/-- Settles O54: the stage a view is decoded from holds the code of the published pointer, which is its pointer. -/
theorem settledViewsAreExact : Obligations.SettledViewsAreExact :=
  ⟨fun _ hsized hgray hsettled => hsettled.views hsized hgray,
    fun _ hsized hgray hsettled => hsettled.views hsized hgray⟩

end Sys2Proof.Proofs

/-!
PROOFS of the statements on crossing latency (43_gray_pointer_sync.md R236, R237, R256): what a number of NOP edges
publishes and shifts, and what the other domain sees then. The facts about the model come first; the statements are
settled at the end.
-/

namespace Sys2Proof.Machine

/-! ### Publishing and shifting again and again -/

/-- `n` shifts of one sample put it in the first `n` stages (R239). -/
theorem shiftIn_iterate {stages : Nat} {sync : List Nat} (hlength : sync.length = stages) (g n : Nat) :
    (shiftIn stages g)^[n] sync = (List.replicate n g ++ sync).take stages := by
  induction n with
  | zero => simp [← hlength]
  | succ n ih =>
    rw [Function.iterate_succ_apply', ih, shiftIn, List.replicate_succ, List.cons_append]
    cases stages <;> simp [List.take_take]

/-- A sample taken in again and again is in the last stage after `S` shifts and no earlier (R239, R241). -/
theorem lastStage_shiftIn_iterate {stages g g' : Nat} {sync : List Nat} (hlength : sync.length = stages)
    (hstages : 0 < stages) (hsync : ∀ x ∈ sync, x = g) (n : Nat) :
    lastStage stages ((shiftIn stages g')^[n] sync) = if stages ≤ n then g' else g := by
  rw [shiftIn_iterate hlength, lastStage, List.getD_eq_getElem?_getD, List.getElem?_take_of_lt (by omega)]
  split
  · rw [List.getElem?_append_left (by rw [List.length_replicate]; omega), List.getElem?_replicate_of_lt (by omega),
      Option.getD_some]
  · rw [List.eq_replicate_of_mem hsync, List.getElem?_append_right (by rw [List.length_replicate]; omega),
      List.length_replicate, List.getElem?_replicate_of_lt (by omega), Option.getD_some]

/-- `n` publish steps move a published pointer `n` positions forward, up to its pointer (R233, R236, R237). -/
theorem publishStep_iterate {pub ptr m : Nat} (hpub : pub < m) (hptr : ptr < m) (n : Nat) :
    (publishStep · ptr m)^[n] pub = (pub + min n (cdist pub ptr m)) % m := by
  induction n with
  | zero => rw [Function.iterate_zero_apply, Nat.zero_min, Nat.add_zero, Nat.mod_eq_of_lt hpub]
  | succ n ih =>
    rw [Function.iterate_succ_apply', ih]
    by_cases hn : n < cdist pub ptr m
    · have hleft := cdist_add_left hpub hptr hn.le
      have hne : (pub + n) % m ≠ ptr := fun heq => by
        rw [heq, cdist_self hptr] at hleft
        omega
      rw [Nat.min_eq_left hn.le, Nat.min_eq_left hn, publishStep_ne m hne, Nat.mod_add_mod, Nat.add_assoc]
    · rw [Nat.min_eq_right (by omega), Nat.min_eq_right (by omega), add_cdist_mod hpub hptr, publishStep_self m rfl]

/-! ### Edges without a command -/

/-- A write-domain edge of the fixed FIFO without a command (R250). -/
def Fixed.wNop (f : Fixed) : Fixed := f.wTick f

/-- A read-domain edge of the fixed FIFO without a command (R251). -/
def Fixed.rNop (f : Fixed) : Fixed := f.rTick f

/-- A write-domain edge of the variable FIFO without a command (R252). -/
def Variable.wNop (v : Variable) : Variable := v.wTick v

/-- A read-domain edge of the variable FIFO without a command (R253). -/
def Variable.rNop (v : Variable) : Variable := v.rTick v

/-- A command that always does `f` to one part of the machine does it `n` times when presented `n` times. -/
theorem execAll_replicate {α : Type} {part : State → α} {f : α → α} {ok : α → Prop} {i : Instr}
    (hexec : ∀ s, ok (part s) → ∃ t, exec i s = .next t ∧ part t = f (part s)) (hok : ∀ x, ok x → ok (f x)) (n : Nat)
    {s : State} (hs : ok (part s)) : ∃ t, execAll (List.replicate n i) s = .next t ∧ part t = f^[n] (part s) := by
  induction n generalizing s with
  | zero => exact ⟨s, rfl, rfl⟩
  | succ n ih =>
    obtain ⟨u, hu, hpart⟩ := hexec s hs
    obtain ⟨t, ht, htpart⟩ := ih (hpart ▸ hok _ hs)
    refine ⟨t, ?_, ?_⟩
    · rw [List.replicate_succ]
      exact execAll_cons.2 ⟨u, hu, ht⟩
    · rw [htpart, hpart, Function.iterate_succ_apply]

section
variable {s : State}

theorem exec_fpNop (hfault : s.fixed.fault = none) (data : Nat) :
    exec (.fpNop data) s = .next (s.putFixed s.fixed.wNop (.fp fpSilent)) :=
  (fixedWEdge_next (w := fpWord 0 data) (p := fpNopPart s.fixed)).2
    (.inr (.inr ⟨hfault, _, _, fpNopPart_ok.2 ⟨rfl, rfl⟩, rfl⟩))

theorem exec_fcNop (hfault : s.fixed.fault = none) :
    exec .fcNop s = .next (s.putFixed s.fixed.rNop (.fc fcSilent)) :=
  (fixedREdge_next (w := fcWord 0) (p := fcNopPart s.fixed)).2
    (.inr (.inr ⟨hfault, _, _, fcNopPart_ok.2 ⟨rfl, rfl⟩, rfl⟩))

theorem exec_vpNop (hfault : s.var.fault = none) (a : Nat) (b : Byte) :
    exec (.vpNop a b) s = .next (s.putVar s.var.wNop (.vp vpSilent)) :=
  (varWEdge_next (w := vpWord s.var.cfg 0 a b) (p := vpNopPart s.var)).2
    (.inr (.inr ⟨hfault, _, _, vpNopPart_ok.2 ⟨rfl, rfl⟩, rfl⟩))

theorem exec_vcNop (hfault : s.var.fault = none) (a : Nat) :
    exec (.vcNop a) s = .next (s.putVar s.var.rNop (.vc vcSilent)) :=
  (varREdge_next (w := vcWord 0 a) (p := vcNopPart s.var)).2
    (.inr (.inr ⟨hfault, _, _, vcNopPart_ok.2 ⟨rfl, rfl⟩, rfl⟩))

theorem execAll_fpNop_replicate (hfault : s.fixed.fault = none) (n : Nat) :
    ∃ t, execAll (List.replicate n (.fpNop 0)) s = .next t ∧ t.fixed = Fixed.wNop^[n] s.fixed :=
  execAll_replicate (part := State.fixed) (f := Fixed.wNop) (ok := fun f => f.fault = none)
    (fun _ hs => ⟨_, exec_fpNop hs 0, rfl⟩) (fun _ hx => hx) n hfault

theorem execAll_fcNop_replicate (hfault : s.fixed.fault = none) (n : Nat) :
    ∃ t, execAll (List.replicate n .fcNop) s = .next t ∧ t.fixed = Fixed.rNop^[n] s.fixed :=
  execAll_replicate (part := State.fixed) (f := Fixed.rNop) (ok := fun f => f.fault = none)
    (fun _ hs => ⟨_, exec_fcNop hs, rfl⟩) (fun _ hx => hx) n hfault

theorem execAll_vpNop_replicate (hfault : s.var.fault = none) (n : Nat) :
    ∃ t, execAll (List.replicate n (.vpNop 0 0)) s = .next t ∧ t.var = Variable.wNop^[n] s.var :=
  execAll_replicate (part := State.var) (f := Variable.wNop) (ok := fun v => v.fault = none)
    (fun _ hs => ⟨_, exec_vpNop hs 0 0, rfl⟩) (fun _ hx => hx) n hfault

theorem execAll_vcNop_replicate (hfault : s.var.fault = none) (n : Nat) :
    ∃ t, execAll (List.replicate n (.vcNop 0)) s = .next t ∧ t.var = Variable.rNop^[n] s.var :=
  execAll_replicate (part := State.var) (f := Variable.rNop) (ok := fun v => v.fault = none)
    (fun _ hs => ⟨_, exec_vcNop hs 0, rfl⟩) (fun _ hx => hx) n hfault

end

/-! ### What `n` edges of a domain without a command leave -/

theorem Fixed.wNop_iterate (f : Fixed) (n : Nat) :
    ∃ wpub wgray, Fixed.wNop^[n] f =
      { f with wpub := wpub, wgray := wgray, rsync := (shiftIn f.cfg.stages f.rgray)^[n] f.rsync } := by
  induction n with
  | zero => exact ⟨_, _, rfl⟩
  | succ n ih =>
    obtain ⟨wpub, wgray, ih⟩ := ih
    rw [Function.iterate_succ_apply', ih, Function.iterate_succ_apply']
    exact ⟨_, _, rfl⟩

theorem Fixed.rNop_iterate (f : Fixed) (n : Nat) :
    ∃ rpub rgray, Fixed.rNop^[n] f =
      { f with rpub := rpub, rgray := rgray, wsync := (shiftIn f.cfg.stages f.wgray)^[n] f.wsync } := by
  induction n with
  | zero => exact ⟨_, _, rfl⟩
  | succ n ih =>
    obtain ⟨rpub, rgray, ih⟩ := ih
    rw [Function.iterate_succ_apply', ih, Function.iterate_succ_apply']
    exact ⟨_, _, rfl⟩

theorem Variable.wNop_iterate {v : Variable} (hgray : v.wgray = bin2gray v.wpub) (n : Nat) :
    Variable.wNop^[n] v =
      { v with
        wpub := (publishStep · (v.tail / v.cfg.block) v.cfg.blocks)^[n] v.wpub
        wgray := bin2gray ((publishStep · (v.tail / v.cfg.block) v.cfg.blocks)^[n] v.wpub)
        rsync := (shiftIn v.cfg.stages v.rgray)^[n] v.rsync } := by
  induction n with
  | zero => simp only [Function.iterate_zero_apply, ← hgray]
  | succ n ih =>
    rw [Function.iterate_succ_apply', ih, Function.iterate_succ_apply', Function.iterate_succ_apply']
    rfl

theorem Variable.rNop_iterate {v : Variable} (hgray : v.rgray = bin2gray v.rpub) (n : Nat) :
    Variable.rNop^[n] v =
      { v with
        rpub := (publishStep · (v.head / v.cfg.block) v.cfg.blocks)^[n] v.rpub
        rgray := bin2gray ((publishStep · (v.head / v.cfg.block) v.cfg.blocks)^[n] v.rpub)
        wsync := (shiftIn v.cfg.stages v.wgray)^[n] v.wsync } := by
  induction n with
  | zero => simp only [Function.iterate_zero_apply, ← hgray]
  | succ n ih =>
    rw [Function.iterate_succ_apply', ih, Function.iterate_succ_apply', Function.iterate_succ_apply']
    rfl

/-- Edges of the write domain without a command leave the tail, the read domain and the fault record. -/
theorem Variable.wNop_iterate_frame (v : Variable) (n : Nat) :
    (Variable.wNop^[n] v).cfg = v.cfg ∧ (Variable.wNop^[n] v).tail = v.tail ∧ (Variable.wNop^[n] v).fault = v.fault ∧
      v.SameReadSide (Variable.wNop^[n] v) := by
  induction n with
  | zero => exact ⟨rfl, rfl, rfl, v.sameReadSide_refl⟩
  | succ n ih => rwa [Function.iterate_succ_apply']

/-- Edges of the read domain without a command leave the head, the write domain and the fault record. -/
theorem Variable.rNop_iterate_frame (v : Variable) (n : Nat) :
    (Variable.rNop^[n] v).cfg = v.cfg ∧ (Variable.rNop^[n] v).head = v.head ∧ (Variable.rNop^[n] v).fault = v.fault ∧
      v.SameWriteSide (Variable.rNop^[n] v) := by
  induction n with
  | zero => exact ⟨rfl, rfl, rfl, v.sameWriteSide_refl⟩
  | succ n ih => rwa [Function.iterate_succ_apply']

/-! ### What the other domain sees after `n` edges (43_gray_pointer_sync.md R256) -/

section
variable {f : Fixed} {v : Variable} {p p' : Nat}

/-- The consumer sees what the write domain has published after `S` read edges, and what it saw before until then. -/
theorem Fixed.tailR_rNop_iterate (hlength : f.wsync.length = f.cfg.stages) (hp : p < f.cfg.slots)
    (hp' : p' < f.cfg.slots) (hwsync : ∀ x ∈ f.wsync, x = bin2gray p) (hwgray : f.wgray = bin2gray p') (n : Nat) :
    (Fixed.rNop^[n] f).tailR = if f.cfg.stages ≤ n then p' else p := by
  obtain ⟨rpub, rgray, hiterate⟩ := f.rNop_iterate n
  have hlast := lastStage_shiftIn_iterate (g' := f.wgray) hlength (fixed_stages_pos _) hwsync n
  rw [hiterate, Fixed.tailR, hlast, apply_ite (gray2bin f.cfg.fAw), hwgray, gray2bin_bin2gray hp,
    gray2bin_bin2gray hp']

/-- The producer sees what the read domain has published after `S` write edges, and what it saw before until then. -/
theorem Fixed.headW_wNop_iterate (hlength : f.rsync.length = f.cfg.stages) (hp : p < f.cfg.slots)
    (hp' : p' < f.cfg.slots) (hrsync : ∀ x ∈ f.rsync, x = bin2gray p) (hrgray : f.rgray = bin2gray p') (n : Nat) :
    (Fixed.wNop^[n] f).headW = if f.cfg.stages ≤ n then p' else p := by
  obtain ⟨wpub, wgray, hiterate⟩ := f.wNop_iterate n
  have hlast := lastStage_shiftIn_iterate (g' := f.rgray) hlength (fixed_stages_pos _) hrsync n
  rw [hiterate, Fixed.headW, hlast, apply_ite (gray2bin f.cfg.fAw), hrgray, gray2bin_bin2gray hp,
    gray2bin_bin2gray hp']

/-- The consumer sees what the write domain has published after `S` read edges, and what it saw before until then. -/
theorem Variable.tailR_rNop_iterate (hlength : v.wsync.length = v.cfg.stages) (hrgray : v.rgray = bin2gray v.rpub)
    (hp : p < v.cfg.blocks) (hp' : p' < v.cfg.blocks) (hwsync : ∀ x ∈ v.wsync, x = bin2gray p)
    (hwgray : v.wgray = bin2gray p') (n : Nat) :
    (Variable.rNop^[n] v).tailR = if v.cfg.stages ≤ n then p' * v.cfg.block else p * v.cfg.block := by
  have hlast := lastStage_shiftIn_iterate (g' := v.wgray) hlength (var_stages_pos _) hwsync n
  rw [Variable.rNop_iterate hrgray, ← v.offsetOf_bin2gray hp, ← v.offsetOf_bin2gray hp', ← hwgray,
    ← apply_ite v.offsetOf, ← hlast]
  rfl

/-- The producer sees what the read domain has published after `S` write edges, and what it saw before until then. -/
theorem Variable.headW_wNop_iterate (hlength : v.rsync.length = v.cfg.stages) (hwgray : v.wgray = bin2gray v.wpub)
    (hp : p < v.cfg.blocks) (hp' : p' < v.cfg.blocks) (hrsync : ∀ x ∈ v.rsync, x = bin2gray p)
    (hrgray : v.rgray = bin2gray p') (n : Nat) :
    (Variable.wNop^[n] v).headW = if v.cfg.stages ≤ n then p' * v.cfg.block else p * v.cfg.block := by
  have hlast := lastStage_shiftIn_iterate (g' := v.rgray) hlength (var_stages_pos _) hrsync n
  rw [Variable.wNop_iterate hwgray, ← v.offsetOf_bin2gray hp, ← v.offsetOf_bin2gray hp', ← hrgray,
    ← apply_ite v.offsetOf, ← hlast]
  rfl

end

/-! ### The fixed FIFO's crossings (43_gray_pointer_sync.md R256, its first two rows) -/

section
variable {s : State}

/-- The FIFO after a push: the tail one position on, and a publish step toward the tail before it (R136, R250). -/
def Fixed.pushed (f : Fixed) : Fixed := Fixed.wTick { f with tail := (f.tail + 1) % f.cfg.slots, resv := false } f

/-- The FIFO after a pop: the head one position on, and a publish step toward the head before it (R139, R251). -/
def Fixed.popped (f : Fixed) : Fixed := Fixed.rTick { f with head := (f.head + 1) % f.cfg.slots } f

theorem exec_fpPush (hfault : s.fixed.fault = none) (hresv : s.fixed.resv = true) (data : Nat) :
    exec (.fpPush data) s = .next (s.putFixed s.fixed.pushed (.fp fpSilent)) :=
  fixedWEdge_next.2 (.inr (.inr ⟨hfault, _, _, fpPushPart_ok.2 ⟨hresv, rfl, rfl⟩, rfl⟩))

theorem exec_fcPop (hfault : s.fixed.fault = none) (hshown : s.fixed.head ≠ s.fixed.tailR) :
    exec .fcPop s = .next (s.putFixed s.fixed.popped (.fc fcSilent)) :=
  fixedREdge_next.2 (.inr (.inr ⟨hfault, _, _, fcPopPart_ok.2 ⟨hshown, rfl, rfl⟩, rfl⟩))

theorem publishStep_succ (c : FixedConfig) {p : Nat} (hp : p < c.slots) :
    publishStep p ((p + 1) % c.slots) c.slots = (p + 1) % c.slots := by
  refine publishStep_ne _ fun heq => ?_
  have hslots := one_lt_slots c
  rw [succ_mod_of_lt hp] at heq
  split at heq <;> omega

theorem Fixed.pushed_wgray {f : Fixed} (hsettled : f.Settled) : f.pushed.wgray = bin2gray f.tail := by
  obtain ⟨hwpub, -⟩ := hsettled
  rw [pushed, wTick_wgray, publishStep_self _ hwpub]

/-- One write edge after its push a slot is published (R234). -/
theorem Fixed.pushed_wNop_wgray {f : Fixed} (hsettled : f.Settled) (hsized : f.Sized) :
    f.pushed.wNop.wgray = bin2gray ((f.tail + 1) % f.cfg.slots) := by
  obtain ⟨hwpub, -⟩ := hsettled
  obtain ⟨htail, -⟩ := hsized
  rw [wNop, wTick_wgray, pushed, wTick_wpub, publishStep_self _ hwpub, wTick_tail, wTick_cfg,
    publishStep_succ _ htail]

theorem Fixed.popped_rgray {f : Fixed} (hsettled : f.Settled) : f.popped.rgray = bin2gray f.head := by
  obtain ⟨-, hrpub, -⟩ := hsettled
  rw [popped, rTick_rgray, publishStep_self _ hrpub]

/-- One read edge after its pop a slot is published as free (R235). -/
theorem Fixed.popped_rNop_rgray {f : Fixed} (hsettled : f.Settled) (hsized : f.Sized) :
    f.popped.rNop.rgray = bin2gray ((f.head + 1) % f.cfg.slots) := by
  obtain ⟨-, hrpub, -⟩ := hsettled
  obtain ⟨-, -, -, hhead, -⟩ := hsized
  rw [rNop, rTick_rgray, popped, rTick_rpub, publishStep_self _ hrpub, rTick_head, rTick_cfg,
    publishStep_succ _ hhead]

/-- Every stage of the consumer's synchroniser of a settled FIFO holds the code of the tail. -/
theorem Fixed.Settled.wsync_eq {f : Fixed} (hsettled : f.Settled) (hgray : f.GrayAgrees) :
    ∀ x ∈ f.wsync, x = bin2gray f.tail := by
  obtain ⟨hwpub, -, hwsync, -⟩ := hsettled
  rwa [hgray.1, hwpub] at hwsync

/-- Every stage of the producer's synchroniser of a settled FIFO holds the code of the head. -/
theorem Fixed.Settled.rsync_eq {f : Fixed} (hsettled : f.Settled) (hgray : f.GrayAgrees) :
    ∀ x ∈ f.rsync, x = bin2gray f.head := by
  obtain ⟨-, hrpub, -, hrsync⟩ := hsettled
  rwa [hgray.2, hrpub] at hrsync

theorem execAll_push_seen (hsized : s.fixed.Sized) (hgray : s.fixed.GrayAgrees) (hsettled : s.fixed.Settled)
    (hfault : s.fixed.fault = none) (hresv : s.fixed.resv = true) (k : Nat) :
    ∃ t, execAll ([.fpPush 0, .fpNop 0] ++ List.replicate k .fcNop) s = .next t ∧
      t.fixed.tailR =
        if s.fixed.cfg.stages ≤ k then (s.fixed.tail + 1) % s.fixed.cfg.slots else s.fixed.tail := by
  have hwgray := Fixed.pushed_wNop_wgray hsettled hsized
  have hwsync := hsettled.wsync_eq hgray
  obtain ⟨htail, -, -, -, -, -, -, -, hwlength, -⟩ := hsized
  have hpush := exec_fpPush hfault hresv 0
  have hnop := exec_fpNop (s := s.putFixed s.fixed.pushed (.fp fpSilent)) hfault 0
  obtain ⟨t, ht, htfixed⟩ := execAll_fcNop_replicate
    (s := (s.putFixed s.fixed.pushed (.fp fpSilent)).putFixed s.fixed.pushed.wNop (.fp fpSilent)) hfault k
  refine ⟨t, execAll_cons.2 ⟨_, hpush, execAll_cons.2 ⟨_, hnop, ht⟩⟩, ?_⟩
  rw [htfixed]
  exact Fixed.tailR_rNop_iterate (f := s.fixed.pushed.wNop) hwlength htail (Nat.mod_lt _ (slots_pos _)) hwsync hwgray k

theorem execAll_push_unpublished (hsized : s.fixed.Sized) (hgray : s.fixed.GrayAgrees) (hsettled : s.fixed.Settled)
    (hfault : s.fixed.fault = none) (hresv : s.fixed.resv = true) (k : Nat) :
    ∃ t, execAll (.fpPush 0 :: List.replicate k .fcNop) s = .next t ∧ t.fixed.tailR = s.fixed.tail := by
  have hwgray := Fixed.pushed_wgray hsettled
  have hwsync := hsettled.wsync_eq hgray
  obtain ⟨htail, -, -, -, -, -, -, -, hwlength, -⟩ := hsized
  have hpush := exec_fpPush hfault hresv 0
  obtain ⟨t, ht, htfixed⟩ := execAll_fcNop_replicate (s := s.putFixed s.fixed.pushed (.fp fpSilent)) hfault k
  refine ⟨t, execAll_cons.2 ⟨_, hpush, ht⟩, ?_⟩
  rw [htfixed]
  exact (Fixed.tailR_rNop_iterate (f := s.fixed.pushed) hwlength htail htail hwsync hwgray k).trans (ite_self _)

theorem execAll_pop_seen (hsized : s.fixed.Sized) (hgray : s.fixed.GrayAgrees) (hsettled : s.fixed.Settled)
    (hfault : s.fixed.fault = none) (hne : s.fixed.head ≠ s.fixed.tail) (k : Nat) :
    ∃ t, execAll ([.fcPop, .fcNop] ++ List.replicate k (.fpNop 0)) s = .next t ∧
      t.fixed.headW =
        if s.fixed.cfg.stages ≤ k then (s.fixed.head + 1) % s.fixed.cfg.slots else s.fixed.head := by
  have hrgray := Fixed.popped_rNop_rgray hsettled hsized
  have hrsync := hsettled.rsync_eq hgray
  have hpop := exec_fcPop hfault ((hsettled.views hsized hgray).1 ▸ hne)
  obtain ⟨-, -, -, hhead, -, -, hrlength, -⟩ := hsized
  have hnop := exec_fcNop (s := s.putFixed s.fixed.popped (.fc fcSilent)) hfault
  obtain ⟨t, ht, htfixed⟩ := execAll_fpNop_replicate
    (s := (s.putFixed s.fixed.popped (.fc fcSilent)).putFixed s.fixed.popped.rNop (.fc fcSilent)) hfault k
  refine ⟨t, execAll_cons.2 ⟨_, hpop, execAll_cons.2 ⟨_, hnop, ht⟩⟩, ?_⟩
  rw [htfixed]
  exact Fixed.headW_wNop_iterate (f := s.fixed.popped.rNop) hrlength hhead (Nat.mod_lt _ (slots_pos _)) hrsync hrgray k

theorem execAll_pop_unpublished (hsized : s.fixed.Sized) (hgray : s.fixed.GrayAgrees) (hsettled : s.fixed.Settled)
    (hfault : s.fixed.fault = none) (hne : s.fixed.head ≠ s.fixed.tail) (k : Nat) :
    ∃ t, execAll (.fcPop :: List.replicate k (.fpNop 0)) s = .next t ∧ t.fixed.headW = s.fixed.head := by
  have hrgray := Fixed.popped_rgray hsettled
  have hrsync := hsettled.rsync_eq hgray
  have hpop := exec_fcPop hfault ((hsettled.views hsized hgray).1 ▸ hne)
  obtain ⟨-, -, -, hhead, -, -, hrlength, -⟩ := hsized
  obtain ⟨t, ht, htfixed⟩ := execAll_fpNop_replicate (s := s.putFixed s.fixed.popped (.fc fcSilent)) hfault k
  refine ⟨t, execAll_cons.2 ⟨_, hpop, ht⟩, ?_⟩
  rw [htfixed]
  exact (Fixed.headW_wNop_iterate (f := s.fixed.popped) hrlength hhead hhead hrsync hrgray k).trans (ite_self _)

end

/-! ### The variable FIFO's crossings (43_gray_pointer_sync.md R256, its last two rows) -/

section
variable {c : VarConfig} {v : Variable} {s : State} {e : Nat}

theorem div_block_mul {x : Nat} (hx : x % c.block = 0) : x / c.block * c.block = x :=
  Nat.div_mul_cancel (Nat.dvd_of_mod_eq_zero hx)

theorem div_block_lt {x : Nat} (hx : x < c.capacity) : x / c.block < c.blocks :=
  (Nat.div_lt_iff_lt_mul (block_pos c)).2 (by rwa [blocks_mul_block])

/-- The distance between aligned offsets, in blocks. -/
theorem cdist_div_block {a b : Nat} (ha : a < c.capacity) (hb : b < c.capacity) (haa : a % c.block = 0)
    (hba : b % c.block = 0) : cdist a b c.capacity / c.block = cdist (a / c.block) (b / c.block) c.blocks := by
  have hmul := cdist_mul_block (div_block_lt ha) (div_block_lt hb)
  rw [div_block_mul haa, div_block_mul hba] at hmul
  rw [hmul, Nat.mul_div_cancel _ (block_pos c)]

/-- Blocks around the ring as bytes around the ring. -/
theorem add_mod_blocks_mul_block (x n : Nat) (hx : x % c.block = 0) :
    (x / c.block + n) % c.blocks * c.block = (x + n * c.block) % c.capacity := by
  rw [← Nat.mul_mod_mul_right, blocks_mul_block, Nat.add_mul, div_block_mul hx]

/-- The FIFO after a push that ends at `e` (R188, R252). -/
def Variable.pushed (v : Variable) (e : Nat) : Variable := Variable.wTick { v with tail := e, resv := false } v

/-- The FIFO after a pop that ends at `e` (R192, R253). -/
def Variable.popped (v : Variable) (e : Nat) : Variable := Variable.rTick { v with head := e } v

theorem exec_vpPush (hfault : s.var.fault = none) (hresv : s.var.resv = true) (a : Nat) (b : Byte) :
    exec (.vpPush a b) s = .next
      (s.putVar (s.var.pushed ((s.var.resvOff + s.var.resvTotal) % s.var.cfg.capacity)) (.vp vpSilent)) :=
  varWEdge_next.2 (.inr (.inr ⟨hfault, _, _, vpPushPart_ok.2 ⟨hresv, rfl, rfl⟩, rfl⟩))

theorem exec_vcPop (hfault : s.var.fault = none) {m : Visible} (hshown : vFrontView s.var = .ok (some m)) (a : Nat) :
    exec (.vcPop a) s = .next
      (s.putVar (s.var.popped ((m.off + m.total) % s.var.cfg.capacity)) (.vc vcSilent)) :=
  varREdge_next.2 (.inr (.inr ⟨hfault, _, _, vcPopPart_ok.2 ⟨m, hshown, rfl, rfl⟩, rfl⟩))

/-- A settled published tail is the block of the tail, and stays so at the push. -/
theorem Variable.Settled.pushed_wpub (hsettled : v.Settled) (e : Nat) :
    (v.pushed e).wpub = v.tail / v.cfg.block := by
  obtain ⟨hwpub, -⟩ := hsettled
  have heq : v.wpub = v.tail / v.cfg.block := by rw [← hwpub, Nat.mul_div_cancel _ (block_pos _)]
  rw [pushed, wTick_wpub, publishStep_self _ heq]

/-- A settled published head is the block of the head, and stays so at the pop. -/
theorem Variable.Settled.popped_rpub (hsettled : v.Settled) (e : Nat) :
    (v.popped e).rpub = v.head / v.cfg.block := by
  obtain ⟨-, hrpub, -⟩ := hsettled
  have heq : v.rpub = v.head / v.cfg.block := by rw [← hrpub, Nat.mul_div_cancel _ (block_pos _)]
  rw [popped, rTick_rpub, publishStep_self _ heq]

/-- Every stage of the consumer's synchroniser of a settled FIFO holds the code of the tail's block. -/
theorem Variable.Settled.wsync_eq (hsettled : v.Settled) (hgray : v.GrayAgrees) :
    ∀ x ∈ v.wsync, x = bin2gray (v.tail / v.cfg.block) := by
  obtain ⟨hwpub, -, hwsync, -⟩ := hsettled
  rwa [hgray.1, ← Nat.mul_div_cancel v.wpub (block_pos v.cfg), hwpub] at hwsync

/-- Every stage of the producer's synchroniser of a settled FIFO holds the code of the head's block. -/
theorem Variable.Settled.rsync_eq (hsettled : v.Settled) (hgray : v.GrayAgrees) :
    ∀ x ∈ v.rsync, x = bin2gray (v.head / v.cfg.block) := by
  obtain ⟨-, hrpub, -, hrsync⟩ := hsettled
  rwa [hgray.2, ← Nat.mul_div_cancel v.rpub (block_pos v.cfg), hrpub] at hrsync

/-- After a push from a settled FIFO, `j` write edges and `k` read edges the consumer sees the blocks published by the
`j` write edges if `k` is at least `S`, and none otherwise (R236, R256). -/
theorem Variable.Inv.tailR_pushed (hinv : v.Inv) (hsettled : v.Settled) (he : e < v.cfg.capacity)
    (hea : e % v.cfg.block = 0) (j k : Nat) :
    (Variable.rNop^[k] (Variable.wNop^[j] (v.pushed e))).tailR =
      if v.cfg.stages ≤ k then
        (v.tail + min j (cdist v.tail e v.cfg.capacity / v.cfg.block) * v.cfg.block) % v.cfg.capacity
      else v.tail := by
  have hwlength := hinv.wsync_length
  have htail := hinv.tail_lt
  obtain ⟨htaila, -⟩ := hinv.aligned
  obtain ⟨-, -, hgray, -⟩ := hinv
  have hpublished : (Variable.wNop^[j] (v.pushed e)).wgray = bin2gray
      ((v.tail / v.cfg.block + min j (cdist v.tail e v.cfg.capacity / v.cfg.block)) % v.cfg.blocks) := by
    rw [Variable.wNop_iterate rfl, cdist_div_block htail he htaila hea, hsettled.pushed_wpub,
      ← publishStep_iterate (div_block_lt htail) (div_block_lt he)]
    rfl
  obtain ⟨hcfg, -, -, -, hrpub, hrgray, hwsync⟩ := Variable.wNop_iterate_frame (v.pushed e) j
  have hseen := Variable.tailR_rNop_iterate (v := Variable.wNop^[j] (v.pushed e)) (by rw [hwsync, hcfg]; exact hwlength)
    (by rw [hrpub, hrgray]; exact hgray.2) (by rw [hcfg]; exact div_block_lt htail)
    (by rw [hcfg]; exact Nat.mod_lt _ (blocks_pos _)) (by rw [hwsync]; exact hsettled.wsync_eq hgray) hpublished k
  rw [hcfg, show (v.pushed e).cfg = v.cfg from rfl] at hseen
  rwa [add_mod_blocks_mul_block _ _ htaila, div_block_mul htaila] at hseen

/-- After a pop from a settled FIFO, `j` read edges and `k` write edges the producer sees the blocks published by the
`j` read edges as free if `k` is at least `S`, and none otherwise (R237, R256). -/
theorem Variable.Inv.headW_popped (hinv : v.Inv) (hsettled : v.Settled) (he : e < v.cfg.capacity)
    (hea : e % v.cfg.block = 0) (j k : Nat) :
    (Variable.wNop^[k] (Variable.rNop^[j] (v.popped e))).headW =
      if v.cfg.stages ≤ k then
        (v.head + min j (cdist v.head e v.cfg.capacity / v.cfg.block) * v.cfg.block) % v.cfg.capacity
      else v.head := by
  have hrlength := hinv.rsync_length
  have hhead := hinv.head_lt
  obtain ⟨-, hheada, -⟩ := hinv.aligned
  obtain ⟨-, -, hgray, -⟩ := hinv
  have hpublished : (Variable.rNop^[j] (v.popped e)).rgray = bin2gray
      ((v.head / v.cfg.block + min j (cdist v.head e v.cfg.capacity / v.cfg.block)) % v.cfg.blocks) := by
    rw [Variable.rNop_iterate rfl, cdist_div_block hhead he hheada hea, hsettled.popped_rpub,
      ← publishStep_iterate (div_block_lt hhead) (div_block_lt he)]
    rfl
  obtain ⟨hcfg, -, -, -, -, hwpub, hwgray, hrsync⟩ := Variable.rNop_iterate_frame (v.popped e) j
  have hseen := Variable.headW_wNop_iterate (v := Variable.rNop^[j] (v.popped e)) (by rw [hrsync, hcfg]; exact hrlength)
    (by rw [hwpub, hwgray]; exact hgray.1) (by rw [hcfg]; exact div_block_lt hhead)
    (by rw [hcfg]; exact Nat.mod_lt _ (blocks_pos _)) (by rw [hrsync]; exact hsettled.rsync_eq hgray) hpublished k
  rw [hcfg, show (v.popped e).cfg = v.cfg from rfl] at hseen
  rwa [add_mod_blocks_mul_block _ _ hheada, div_block_mul hheada] at hseen

theorem execAll_vpPush_seen (hinv : s.var.Inv) (hsettled : s.var.Settled) (hfault : s.var.fault = none)
    (hresv : s.var.resv = true) (he : e = (s.var.resvOff + s.var.resvTotal) % s.var.cfg.capacity) (j k : Nat) :
    ∃ t, execAll (.vpPush 0 0 :: (List.replicate j (.vpNop 0 0) ++ List.replicate k (.vcNop 0))) s = .next t ∧
      t.var.tail = e ∧
      t.var.tailR =
        if s.var.cfg.stages ≤ k then
          (s.var.tail + min j (cdist s.var.tail e s.var.cfg.capacity / s.var.cfg.block) * s.var.cfg.block) %
            s.var.cfg.capacity
        else s.var.tail := by
  have hpush := exec_vpPush hfault hresv 0 0
  rw [← he] at hpush
  obtain ⟨hea, -⟩ := (exec_keeps_var_inv hinv hpush).aligned
  obtain ⟨u, hu, huvar⟩ := execAll_vpNop_replicate (s := s.putVar (s.var.pushed e) (.vp vpSilent)) hfault j
  obtain ⟨-, hutail, hufault, -⟩ := Variable.wNop_iterate_frame (s.var.pushed e) j
  obtain ⟨t, ht, htvar⟩ := execAll_vcNop_replicate (s := u) (huvar ▸ hufault.trans hfault) k
  obtain ⟨-, -, -, httail, -⟩ := Variable.rNop_iterate_frame u.var k
  refine ⟨t, execAll_cons.2 ⟨_, hpush, execAll_append.2 ⟨u, hu, ht⟩⟩, ?_, ?_⟩
  · rw [htvar, httail, huvar]
    exact hutail
  · rw [htvar, huvar]
    exact hinv.tailR_pushed hsettled (he ▸ Nat.mod_lt _ (capacity_pos _)) hea j k

theorem execAll_vcPop_seen {m : Visible} (hinv : s.var.Inv) (hsettled : s.var.Settled) (hfault : s.var.fault = none)
    (hshown : vFrontView s.var = .ok (some m)) (he : e = (m.off + m.total) % s.var.cfg.capacity) (j k : Nat) :
    ∃ t, execAll (.vcPop 0 :: (List.replicate j (.vcNop 0) ++ List.replicate k (.vpNop 0 0))) s = .next t ∧
      t.var.head = e ∧
      t.var.headW =
        if s.var.cfg.stages ≤ k then
          (s.var.head + min j (cdist s.var.head e s.var.cfg.capacity / s.var.cfg.block) * s.var.cfg.block) %
            s.var.cfg.capacity
        else s.var.head := by
  have hpop := exec_vcPop hfault hshown 0
  rw [← he] at hpop
  obtain ⟨-, hea, -⟩ := (exec_keeps_var_inv hinv hpop).aligned
  obtain ⟨u, hu, huvar⟩ := execAll_vcNop_replicate (s := s.putVar (s.var.popped e) (.vc vcSilent)) hfault j
  obtain ⟨-, huhead, hufault, -⟩ := Variable.rNop_iterate_frame (s.var.popped e) j
  obtain ⟨t, ht, htvar⟩ := execAll_vpNop_replicate (s := u) (huvar ▸ hufault.trans hfault) k
  obtain ⟨-, -, -, hthead, -⟩ := Variable.wNop_iterate_frame u.var k
  refine ⟨t, execAll_cons.2 ⟨_, hpop, execAll_append.2 ⟨u, hu, ht⟩⟩, ?_, ?_⟩
  · rw [htvar, hthead, huvar]
    exact huhead
  · rw [htvar, huvar]
    exact hinv.headW_popped hsettled (he ▸ Nat.mod_lt _ (capacity_pos _)) hea j k

end

end Sys2Proof.Machine

/-! ### The statements -/

namespace Sys2Proof.Proofs

open Sys2Proof.Machine

/-- Settles O56: a push is published by the write edge after it, a pop by the read edge after it, and the `S` stages of
the other domain's synchroniser shift what is published then; without that edge they shift what they hold. -/
theorem fixedCrossingLatencyIsExact : Obligations.FixedCrossingLatencyIsExact :=
  fun _ k hsized hgray hsettled hfault =>
    ⟨fun hresv => ⟨execAll_push_seen hsized hgray hsettled hfault hresv k,
      execAll_push_unpublished hsized hgray hsettled hfault hresv k⟩,
    fun hne => ⟨execAll_pop_seen hsized hgray hsettled hfault hne k,
      execAll_pop_unpublished hsized hgray hsettled hfault hne k⟩⟩

/-- Settles O57: `j` publish steps move the published pointer `min j n` blocks toward its pointer, and the `S` stages of
the other domain's synchroniser shift what is published then. -/
theorem variablePushIsPublishedBlockByBlock : Obligations.VariablePushIsPublishedBlockByBlock := by
  refine fun s j k n e hinv hsettled hfault => ⟨?_, ?_⟩
  · rintro hresv he rfl
    exact execAll_vpPush_seen hinv hsettled hfault hresv he j k
  · rintro m hshown he rfl
    exact execAll_vcPop_seen hinv hsettled hfault hshown he j k

end Sys2Proof.Proofs

/-!
PROOFS of the statement on infinite fair runs (43_gray_pointer_sync.md R255, R257). A pointer that is published and
shifted into the other domain is treated once for all four crossings (`Crossing`), and both FIFOs by the
positions on their ring (`Positions`). The facts about the model come first; the statement is settled at the end.
-/

namespace Sys2Proof.Machine

/-! ### What a pointer has left behind stays behind it (00_scope.md R14) -/

section
variable {m a t e : Nat}

theorem cdist_self_add (ht : t < m) (he : e < m) : cdist t ((t + e) % m) m = e := by
  have hself := cdist_self ht
  rw [cdist_add_right (by omega), hself, Nat.zero_add]

theorem travelled_mono (m : Nat) (p : Nat → Nat) : Monotone (travelled m p) :=
  monotone_nat_of_le_succ fun _ => Nat.le_add_right _ _

/-- A pointer that stays travels no further. -/
theorem travelled_eq_of_stays {p : Nat → Nat} {n k : Nat} (hlt : p n < m) (hk : n ≤ k)
    (hstays : ∀ j, n ≤ j → j ≤ k → p j = p n) : travelled m p k = travelled m p n := by
  induction k, hk using Nat.le_induction with
  | base => rfl
  | succ k hk ih =>
    rw [travelled, ih fun j hj hjk => hstays j hj (by omega), hstays k hk (by omega),
      hstays (k + 1) (by omega) (Nat.le_refl _), cdist_self hlt, Nat.add_zero]

end

/-! ### A crossing in a fair run (43_gray_pointer_sync.md R233 to R241, R257) -/

/-- Along a run on a ring of `m` positions, a pointer `ptr` with its published copy `pub` and the synchroniser `sync` of
the other domain. At `drive` edges the copy comes nearer to the pointer, at `sample` edges the synchroniser shifts the
copy in, at no other step do they change, and both kinds of edge come again and again. The pointer never catches up,
around the ring, with its copy or a stage. -/
structure Crossing (m stages : Nat) (ptr pub : Nat → Nat) (sync : Nat → List Nat) (drive sample : Nat → Prop) :
    Prop where
  ptr_lt : ∀ n, ptr n < m
  room : ∀ n, ∀ x ∈ pub n :: sync n, cdist x (ptr n) m + cdist (ptr n) (ptr (n + 1)) m < m
  publish : ∀ n, drive n → cdist (pub (n + 1)) (ptr n) m ≤ cdist (pub n) (ptr n) m - 1
  pub_idle : ∀ n, ¬drive n → pub (n + 1) = pub n
  shift : ∀ n, sample n → sync (n + 1) = (pub n :: sync n).take stages
  sync_idle : ∀ n, ¬sample n → sync (n + 1) = sync n
  length : ∀ n, (sync n).length = stages
  drive_often : ∀ n, ∃ k, n ≤ k ∧ drive k
  sample_often : ∀ n, ∃ k, n ≤ k ∧ sample k

/-- At step `n` of a run the position `x` behind the pointer is where the pointer was after `a` positions of its way,
or beyond. -/
abbrev Reached (m : Nat) (ptr : Nat → Nat) (a : Int) (n x : Nat) : Prop :=
  a + cdist x (ptr n) m ≤ travelled m ptr n

namespace Crossing

variable {m stages : Nat} {ptr pub : Nat → Nat} {sync : Nat → List Nat} {drive sample : Nat → Prop} {a : Int}
  {n k x : Nat}

/-- What is reached stays reached: the pointer moves away from the position by as much as it travels. -/
theorem reached_succ (h : Crossing m stages ptr pub sync drive sample)
    (hroom : cdist x (ptr n) m + cdist (ptr n) (ptr (n + 1)) m < m) (hx : Reached m ptr a n x) :
    Reached m ptr a (n + 1) x := by
  have hmove := cdist_add_right hroom
  rw [add_cdist_mod (h.ptr_lt n) (h.ptr_lt (n + 1))] at hmove
  rw [Reached, travelled, hmove]
  omega

/-- At a drive edge the copy comes nearer, so there is room behind the pointer for where it goes. -/
theorem reached_publish (h : Crossing m stages ptr pub sync drive sample) (hdrive : drive n)
    (hx : Reached m ptr a n (pub (n + 1))) : Reached m ptr a (n + 1) (pub (n + 1)) := by
  have hnear := h.publish n hdrive
  have hroom := h.room n _ List.mem_cons_self
  exact h.reached_succ (by omega) hx

theorem pub_reached_succ (h : Crossing m stages ptr pub sync drive sample) (hn : Reached m ptr a n (pub n)) :
    Reached m ptr a (n + 1) (pub (n + 1)) := by
  by_cases hdrive : drive n
  · have hnear := h.publish n hdrive
    exact h.reached_publish hdrive (by omega)
  · rw [h.pub_idle n hdrive]
    exact h.reached_succ (h.room n _ List.mem_cons_self) hn

theorem pub_reached_of_le (h : Crossing m stages ptr pub sync drive sample) (hk : n ≤ k)
    (hn : Reached m ptr a n (pub n)) : Reached m ptr a k (pub k) := by
  induction k, hk using Nat.le_induction with
  | base => exact hn
  | succ k _ ih => exact h.pub_reached_succ ih

/-- However far the copy is behind, drive edges bring it to where the pointer was (R257). -/
theorem exists_pub_reached_of_lag (h : Crossing m stages ptr pub sync drive sample) (d : Nat) (hk : n ≤ k)
    (hlag : Reached m ptr (travelled m ptr n - d) k (pub k)) :
    ∃ k, n ≤ k ∧ Reached m ptr (travelled m ptr n) k (pub k) := by
  induction d generalizing k with
  | zero => exact ⟨k, hk, by simpa using hlag⟩
  | succ d ih =>
    obtain ⟨j, hj, hdrive⟩ := h.drive_often k
    have hlag := h.pub_reached_of_le hj hlag
    have hmono := travelled_mono m ptr (hk.trans hj)
    have hnear := h.publish j hdrive
    by_cases hthere : cdist (pub j) (ptr j) m = 0
    · exact ⟨j, hk.trans hj, by omega⟩
    · exact ih (by omega) (h.reached_publish hdrive (by omega))

theorem exists_pub_reached (h : Crossing m stages ptr pub sync drive sample) (n : Nat) :
    ∃ k, n ≤ k ∧ Reached m ptr (travelled m ptr n) k (pub k) :=
  h.exists_pub_reached_of_lag (cdist (pub n) (ptr n) m) (Nat.le_refl n) (by omega)

/-- The copy and the first `i` stages of the synchroniser have reached `a`. -/
def StagesReached (m : Nat) (ptr pub : Nat → Nat) (sync : Nat → List Nat) (a : Int) (n i : Nat) : Prop :=
  ∀ x ∈ pub n :: (sync n).take i, Reached m ptr a n x

theorem reached_shift (h : Crossing m stages ptr pub sync drive sample) {i : Nat}
    (hn : StagesReached m ptr pub sync a n i) (hx : x ∈ (sync (n + 1)).take (i + 1)) (hsample : sample n) :
    Reached m ptr a (n + 1) x := by
  rw [h.shift n hsample, List.take_take, Nat.min_comm, ← List.take_take, List.take_succ_cons] at hx
  have hx := List.mem_of_mem_take hx
  exact h.reached_succ (h.room n x (List.cons_subset_cons _ (List.take_subset ..) hx)) (hn x hx)

theorem stagesReached_succ (h : Crossing m stages ptr pub sync drive sample) {i : Nat}
    (hn : StagesReached m ptr pub sync a n i) : StagesReached m ptr pub sync a (n + 1) i := by
  refine List.forall_mem_cons.2 ⟨h.pub_reached_succ (hn _ List.mem_cons_self), fun x hx => ?_⟩
  by_cases hsample : sample n
  · exact h.reached_shift hn (List.take_subset_take_left _ (Nat.le_succ i) hx) hsample
  · rw [h.sync_idle n hsample] at hx
    exact h.reached_succ (h.room n x (List.mem_cons_of_mem _ (List.mem_of_mem_take hx)))
      (hn x (List.mem_cons_of_mem _ hx))

theorem stagesReached_of_le (h : Crossing m stages ptr pub sync drive sample) {i : Nat} (hk : n ≤ k)
    (hn : StagesReached m ptr pub sync a n i) : StagesReached m ptr pub sync a k i := by
  induction k, hk using Nat.le_induction with
  | base => exact hn
  | succ k _ ih => exact h.stagesReached_succ ih

/-- Each sample edge brings what the copy has reached one stage on (R239, R257). -/
theorem exists_stagesReached (h : Crossing m stages ptr pub sync drive sample) (n i : Nat) :
    ∃ k, n ≤ k ∧ StagesReached m ptr pub sync (travelled m ptr n) k i := by
  induction i with
  | zero =>
    obtain ⟨k, hk, hpub⟩ := h.exists_pub_reached n
    exact ⟨k, hk, by simpa [StagesReached] using hpub⟩
  | succ i ih =>
    obtain ⟨k, hk, hreached⟩ := ih
    obtain ⟨j, hj, hsample⟩ := h.sample_often k
    have hreached := h.stagesReached_of_le hj hreached
    exact ⟨j + 1, by omega, List.forall_mem_cons.2
      ⟨h.pub_reached_succ (hreached _ List.mem_cons_self), fun x hx => h.reached_shift hreached hx hsample⟩⟩

/-- From some step on the copy and every stage are where the pointer was at step `n`, or beyond (R257). -/
theorem eventually_reached (h : Crossing m stages ptr pub sync drive sample) (n : Nat) :
    ∃ k, n ≤ k ∧ ∀ j, k ≤ j → ∀ x ∈ pub j :: sync j, travelled m ptr n + cdist x (ptr j) m ≤ travelled m ptr j := by
  obtain ⟨k, hk, hreached⟩ := h.exists_stagesReached n stages
  refine ⟨k, hk, fun j hj x hx => ?_⟩
  rw [← List.take_of_length_le (h.length j).le] at hx
  have hx := h.stagesReached_of_le hj hreached x hx
  omega

/-- If the pointer stays, from some step on the copy and every stage are at it (R257, R258). -/
theorem eventually_eq (h : Crossing m stages ptr pub sync drive sample) (hlt : ∀ n, ∀ x ∈ pub n :: sync n, x < m)
    (hstays : ∀ k, n ≤ k → ptr k = ptr n) :
    ∃ k, n ≤ k ∧ ∀ j, k ≤ j → ∀ x ∈ pub j :: sync j, x = ptr j := by
  obtain ⟨k, hk, hreached⟩ := h.eventually_reached n
  refine ⟨k, hk, fun j hj x hx => ?_⟩
  have hx' := hreached j hj x hx
  rw [travelled_eq_of_stays (h.ptr_lt n) (hk.trans hj) fun i hi _ => hstays i hi] at hx'
  exact (cdist_eq_zero (hlt j x hx) (h.ptr_lt j)).1 (by omega)

end Crossing

/-! ### Both FIFOs as positions on a ring (43_gray_pointer_sync.md R247, R248) -/

/-- The decoded positions of a FIFO's pointers, published pointers and synchroniser stages. -/
structure Positions where
  tail : Nat
  head : Nat
  wpub : Nat
  rpub : Nat
  wsync : List Nat
  rsync : List Nat

namespace Positions

/-- Positions of the ring, in the order of the chain invariant, in synchronisers of `S` stages. -/
structure Ok (m stages : Nat) (r : Positions) : Prop where
  tail_lt : r.tail < m
  head_lt : r.head < m
  write_lt : ∀ x ∈ r.wpub :: r.wsync, x < m
  read_lt : ∀ x ∈ r.rpub :: r.rsync, x < m
  order : InOrder m r.tail r.rsync r.rpub r.head r.wsync r.wpub
  wsync_length : r.wsync.length = stages
  rsync_length : r.rsync.length = stages

/-- A write-domain edge: the tail moves into room the read domain has published, the published tail comes nearer to it,
and the published head is shifted in. -/
structure WriteEdge (m stages : Nat) (r q : Positions) : Prop where
  room : cdist r.rpub r.tail m + cdist r.tail q.tail m < m
  publish : cdist q.wpub r.tail m ≤ cdist r.wpub r.tail m - 1
  shift : q.rsync = (r.rpub :: r.rsync).take stages
  head : q.head = r.head
  rpub : q.rpub = r.rpub
  wsync : q.wsync = r.wsync

/-- A read-domain edge: the head moves no farther than the tail, the published head comes nearer to it, and the
published tail is shifted in. -/
structure ReadEdge (m stages : Nat) (r q : Positions) : Prop where
  room : cdist r.head q.head m ≤ cdist r.head r.tail m
  publish : cdist q.rpub r.head m ≤ cdist r.rpub r.head m - 1
  shift : q.wsync = (r.wpub :: r.wsync).take stages
  tail : q.tail = r.tail
  wpub : q.wpub = r.wpub
  rsync : q.rsync = r.rsync

/-- A run of the ring with infinitely many edges of each domain. -/
structure FairRun (m stages : Nat) (r : Nat → Positions) (write read : Nat → Prop) : Prop where
  ok : ∀ n, (r n).Ok m stages
  writeEdge : ∀ n, write n → WriteEdge m stages (r n) (r (n + 1))
  readEdge : ∀ n, read n → ReadEdge m stages (r n) (r (n + 1))
  idle : ∀ n, ¬write n → ¬read n → r (n + 1) = r n
  write_often : ∀ n, ∃ k, n ≤ k ∧ write k
  read_often : ∀ n, ∃ k, n ≤ k ∧ read k

variable {m stages : Nat} {r : Nat → Positions} {write read : Nat → Prop} {n x : Nat}

theorem FairRun.writeSide_idle (h : FairRun m stages r write read) (hn : ¬write n) :
    (r (n + 1)).tail = (r n).tail ∧ (r (n + 1)).wpub = (r n).wpub ∧ (r (n + 1)).rsync = (r n).rsync := by
  by_cases hread : read n
  · exact ⟨(h.readEdge n hread).tail, (h.readEdge n hread).wpub, (h.readEdge n hread).rsync⟩
  · rw [h.idle n hn hread]
    exact ⟨rfl, rfl, rfl⟩

theorem FairRun.readSide_idle (h : FairRun m stages r write read) (hn : ¬read n) :
    (r (n + 1)).head = (r n).head ∧ (r (n + 1)).rpub = (r n).rpub ∧ (r (n + 1)).wsync = (r n).wsync := by
  by_cases hwrite : write n
  · exact ⟨(h.writeEdge n hwrite).head, (h.writeEdge n hwrite).rpub, (h.writeEdge n hwrite).wsync⟩
  · rw [h.idle n hwrite hn]
    exact ⟨rfl, rfl, rfl⟩

/-- At every step the tail moves into room the read domain has published. -/
theorem FairRun.tail_room (h : FairRun m stages r write read) (n : Nat) :
    cdist (r n).rpub (r n).tail m + cdist (r n).tail (r (n + 1)).tail m < m := by
  by_cases hwrite : write n
  · exact (h.writeEdge n hwrite).room
  · have hlt := (h.ok n).tail_lt
    rw [(h.writeSide_idle hwrite).1, cdist_self hlt]
    exact cdist_lt (by omega)

/-- At every step the head moves no farther than the tail. -/
theorem FairRun.head_room (h : FairRun m stages r write read) (n : Nat) :
    cdist (r n).head (r (n + 1)).head m ≤ cdist (r n).head (r n).tail m := by
  by_cases hread : read n
  · exact (h.readEdge n hread).room
  · rw [(h.readSide_idle hread).1, cdist_self (h.ok n).head_lt]
    exact Nat.zero_le _

/-- What is published or shifted of the tail is behind it, and at the head or beyond. -/
theorem Ok.writeSide_le {r : Positions} (h : r.Ok m stages) (hx : x ∈ r.wpub :: r.wsync) :
    cdist x r.tail m ≤ cdist r.head r.tail m := by
  obtain rfl | hx := List.mem_cons.1 hx
  · exact h.order.wpub_le_head
  · exact h.order.wsync_le x hx

/-- What is published or shifted of the head is behind it. -/
theorem Ok.le_readSide {r : Positions} (h : r.Ok m stages) (hx : x ∈ r.rpub :: r.rsync) :
    cdist r.head r.tail m ≤ cdist x r.tail m := by
  obtain rfl | hx := List.mem_cons.1 hx
  · exact h.order.head_le
  · exact h.order.head_le.trans (h.order.rpub_le x hx)

theorem FairRun.tailCrossing (h : FairRun m stages r write read) :
    Crossing m stages (fun n => (r n).tail) (fun n => (r n).wpub) (fun n => (r n).wsync) write read where
  ptr_lt n := (h.ok n).tail_lt
  room n x hx := by
    have hle := (h.ok n).writeSide_le hx
    have hhead := (h.ok n).order.head_le
    have hroom := h.tail_room n
    omega
  publish n hn := (h.writeEdge n hn).publish
  pub_idle n hn := (h.writeSide_idle hn).2.1
  shift n hn := (h.readEdge n hn).shift
  sync_idle n hn := (h.readSide_idle hn).2.2
  length n := (h.ok n).wsync_length
  drive_often := h.write_often
  sample_often := h.read_often

theorem FairRun.headCrossing (h : FairRun m stages r write read) :
    Crossing m stages (fun n => (r n).head) (fun n => (r n).rpub) (fun n => (r n).rsync) read write where
  ptr_lt n := (h.ok n).head_lt
  room n x hx := by
    have hsum := cdist_add_cdist ((h.ok n).read_lt x hx) (h.ok n).head_lt (h.ok n).tail_lt ((h.ok n).le_readSide hx)
    have hlt := cdist_lt (a := x) (b := (r n).tail) (Nat.zero_lt_of_lt (h.ok n).tail_lt)
    have hroom := h.head_room n
    omega
  publish n hn := (h.readEdge n hn).publish
  pub_idle n hn := (h.readSide_idle hn).2.1
  shift n hn := (h.writeEdge n hn).shift
  sync_idle n hn := (h.writeSide_idle hn).2.2
  length n := (h.ok n).rsync_length
  drive_often := h.read_often
  sample_often := h.write_often

/-- What was in the ring and what the tail has travelled is what the head has travelled and what is in the ring. -/
theorem FairRun.travelled_eq (h : FairRun m stages r write read) (n : Nat) :
    cdist (r 0).head (r 0).tail m + travelled m (fun k => (r k).tail) n =
      travelled m (fun k => (r k).head) n + cdist (r n).head (r n).tail m := by
  induction n with
  | zero => rw [travelled, travelled, Nat.add_zero, Nat.zero_add]
  | succ n ih =>
    have htail := (h.ok n).tail_lt
    have hhead := (h.ok n).head_lt
    have htail' := (h.ok (n + 1)).tail_lt
    have hhead' := (h.ok (n + 1)).head_lt
    rw [travelled, travelled]
    by_cases hwrite : write n
    · have hroom := h.tail_room n
      have hle := (h.ok n).order.head_le
      have hmove := cdist_add_right (a := (r n).head) (t := (r n).tail) (m := m)
        (e := cdist (r n).tail (r (n + 1)).tail m) (by omega)
      rw [add_cdist_mod htail htail'] at hmove
      rw [(h.writeEdge n hwrite).head, cdist_self hhead, hmove]
      omega
    · have hroom := h.head_room n
      have hmove := cdist_add_left hhead htail hroom
      rw [add_cdist_mod hhead hhead'] at hmove
      rw [(h.writeSide_idle hwrite).1, cdist_self htail, hmove]
      omega

/-- Whatever was pushed by step `n` is from some step on popped, or published and shifted into every stage of the read
domain's synchroniser (R257). -/
theorem FairRun.eventually_visible (h : FairRun m stages r write read) (n : Nat) :
    ∃ k, n ≤ k ∧ ∀ j, k ≤ j → ∀ x ∈ (r j).wsync,
      cdist (r 0).head (r 0).tail m + travelled m (fun k => (r k).tail) n ≤
        travelled m (fun k => (r k).head) j + cdist (r j).head x m := by
  obtain ⟨k, hk, hreached⟩ := h.tailCrossing.eventually_reached n
  refine ⟨k, hk, fun j hj x hx => ?_⟩
  have hx := List.mem_cons_of_mem (r j).wpub hx
  have hreached := hreached j hj x hx
  have hsum := cdist_add_cdist (h.ok j).head_lt ((h.ok j).write_lt x hx) (h.ok j).tail_lt ((h.ok j).writeSide_le hx)
  have heq := h.travelled_eq j
  omega

/-- Whatever was popped by step `n` is from some step on published as free and shifted into every stage of the write
domain's synchroniser (R257). -/
theorem FairRun.eventually_freed (h : FairRun m stages r write read) (n : Nat) :
    ∃ k, n ≤ k ∧ ∀ j, k ≤ j → ∀ x ∈ (r j).rsync,
      travelled m (fun k => (r k).head) n + cdist x (r j).tail m ≤
        cdist (r 0).head (r 0).tail m + travelled m (fun k => (r k).tail) j := by
  obtain ⟨k, hk, hreached⟩ := h.headCrossing.eventually_reached n
  refine ⟨k, hk, fun j hj x hx => ?_⟩
  have hx := List.mem_cons_of_mem (r j).rpub hx
  have hreached := hreached j hj x hx
  have hsum := cdist_add_cdist ((h.ok j).read_lt x hx) (h.ok j).head_lt (h.ok j).tail_lt ((h.ok j).le_readSide hx)
  have heq := h.travelled_eq j
  omega

/-- If neither pointer moves after step `n`, from some step on all that is published and shifted is at its pointer
(R257, R258). -/
theorem FairRun.eventually_settled (h : FairRun m stages r write read)
    (hstays : ∀ k, n ≤ k → (r k).tail = (r n).tail ∧ (r k).head = (r n).head) :
    ∃ k, n ≤ k ∧ ∀ j, k ≤ j →
      (∀ x ∈ (r j).wpub :: (r j).wsync, x = (r j).tail) ∧ ∀ x ∈ (r j).rpub :: (r j).rsync, x = (r j).head := by
  obtain ⟨k, hk, htail⟩ := h.tailCrossing.eventually_eq (fun n => (h.ok n).write_lt) fun k hk => (hstays k hk).1
  obtain ⟨i, hi, hhead⟩ := h.headCrossing.eventually_eq (fun n => (h.ok n).read_lt) fun k hk => (hstays k hk).2
  exact ⟨max k i, by omega, fun j hj => ⟨htail j (by omega), hhead j (by omega)⟩⟩

end Positions

/-! ### The FIFOs' positions -/

section
variable {pub ptr m : Nat}

theorem cdist_publishStep_le_sub_one (hpub : pub < m) (hptr : ptr < m) :
    cdist (publishStep pub ptr m) ptr m ≤ cdist pub ptr m - 1 := by
  by_cases heq : pub = ptr
  · rw [publishStep_self m heq, cdist_self hptr]
    exact Nat.zero_le _
  · have hsucc := cdist_publishStep_succ hpub hptr heq
    omega

/-- A publish step in blocks comes nearer in bytes. -/
theorem cdist_publishStep_mul_block_le_sub_one {c : VarConfig} (hpub : pub < c.blocks) (hptr : ptr < c.capacity)
    (haligned : ptr % c.block = 0) :
    cdist (publishStep pub (ptr / c.block) c.blocks * c.block) ptr c.capacity ≤
      cdist (pub * c.block) ptr c.capacity - 1 := by
  have hblock := block_pos c
  have hstep := cdist_mul_block (publishStep_lt (ptr := ptr / c.block) hpub) (div_block_lt hptr)
  have hold := cdist_mul_block hpub (div_block_lt hptr)
  rw [div_block_mul haligned] at hstep hold
  rw [hstep, hold]
  calc cdist (publishStep pub (ptr / c.block) c.blocks) (ptr / c.block) c.blocks * c.block
      ≤ (cdist pub (ptr / c.block) c.blocks - 1) * c.block :=
        Nat.mul_le_mul_right _ (cdist_publishStep_le_sub_one hpub (div_block_lt hptr))
    _ ≤ cdist pub (ptr / c.block) c.blocks * c.block - 1 := by rw [Nat.sub_one_mul]; omega

end

/-- The positions of the fixed chain (R247). -/
def Fixed.positions (f : Fixed) : Positions where
  tail := f.tail
  head := f.head
  wpub := f.wpub
  rpub := f.rpub
  wsync := f.wsync.map (gray2bin f.cfg.fAw)
  rsync := f.rsync.map (gray2bin f.cfg.fAw)

/-- The positions of the variable chain (R248). -/
def Variable.positions (v : Variable) : Positions where
  tail := v.tail
  head := v.head
  wpub := v.wpub * v.cfg.block
  rpub := v.rpub * v.cfg.block
  wsync := v.wsync.map v.offsetOf
  rsync := v.rsync.map v.offsetOf

theorem Fixed.Inv.positions_ok {f : Fixed} (hinv : f.Inv) : f.positions.Ok f.cfg.slots f.cfg.stages := by
  have hdecoded : ∀ sync : List Nat, ∀ x ∈ sync.map (gray2bin f.cfg.fAw), x < f.cfg.slots := by
    intro sync x hx
    obtain ⟨g, -, rfl⟩ := List.mem_map.1 hx
    exact gray2bin_lt _ _
  obtain ⟨hwpub, hrpub⟩ := hinv.published_lt
  obtain ⟨hrlength, hwlength⟩ := hinv.sync_length
  exact ⟨hinv.tail_lt, hinv.head_lt, List.forall_mem_cons.2 ⟨hwpub, hdecoded _⟩,
    List.forall_mem_cons.2 ⟨hrpub, hdecoded _⟩, hinv.ordered, (List.length_map _).trans hwlength,
    (List.length_map _).trans hrlength⟩

theorem Variable.Inv.published_lt {v : Variable} (hinv : v.Inv) : v.wpub < v.cfg.blocks ∧ v.rpub < v.cfg.blocks := by
  obtain ⟨⟨-, -, -, -, hwpub, -, -, hrpub, -⟩, -⟩ := hinv
  exact ⟨hwpub, hrpub⟩

theorem Variable.Inv.grayAgrees {v : Variable} (hinv : v.Inv) : v.GrayAgrees := by
  obtain ⟨-, -, hgray, -⟩ := hinv
  exact hgray

theorem Variable.Inv.positions_ok {v : Variable} (hinv : v.Inv) : v.positions.Ok v.cfg.capacity v.cfg.stages := by
  have hdecoded : ∀ sync : List Nat, ∀ x ∈ sync.map v.offsetOf, x < v.cfg.capacity := by
    intro sync x hx
    obtain ⟨g, -, rfl⟩ := List.mem_map.1 hx
    exact v.offsetOf_lt g
  obtain ⟨hwpub, hrpub⟩ := hinv.published_lt
  exact ⟨hinv.tail_lt, hinv.head_lt, List.forall_mem_cons.2 ⟨mul_block_lt _ hwpub, hdecoded _⟩,
    List.forall_mem_cons.2 ⟨mul_block_lt _ hrpub, hdecoded _⟩, hinv.ordered,
    (List.length_map _).trans hinv.wsync_length, (List.length_map _).trans hinv.rsync_length⟩

/-- A fixed FIFO with all positions at their pointers is settled (R258). -/
theorem Fixed.Inv.settled_of_positions {f : Fixed} (hinv : f.Inv)
    (hwrite : ∀ x ∈ f.positions.wpub :: f.positions.wsync, x = f.tail)
    (hread : ∀ x ∈ f.positions.rpub :: f.positions.rsync, x = f.head) : f.Settled := by
  obtain ⟨hwpub, hwsync⟩ := List.forall_mem_cons.1 hwrite
  obtain ⟨hrpub, hrsync⟩ := List.forall_mem_cons.1 hread
  obtain ⟨⟨-, -, -, -, -, -, -, hrlt, -, hwlt, -⟩, ⟨hwgray, hrgray⟩, -⟩ := hinv
  refine ⟨hwpub, hrpub, fun x hx => ?_, fun x hx => ?_⟩
  · rw [hwgray, show f.wpub = f.tail from hwpub, ← hwsync _ (List.mem_map_of_mem hx), bin2gray_gray2bin (hwlt x hx)]
  · rw [hrgray, show f.rpub = f.head from hrpub, ← hrsync _ (List.mem_map_of_mem hx), bin2gray_gray2bin (hrlt x hx)]

/-- A variable FIFO with all positions at their pointers is settled (R258). -/
theorem Variable.Inv.settled_of_positions {v : Variable} (hinv : v.Inv)
    (hwrite : ∀ x ∈ v.positions.wpub :: v.positions.wsync, x = v.tail)
    (hread : ∀ x ∈ v.positions.rpub :: v.positions.rsync, x = v.head) : v.Settled := by
  obtain ⟨hwpub, hwsync⟩ := List.forall_mem_cons.1 hwrite
  obtain ⟨hrpub, hrsync⟩ := List.forall_mem_cons.1 hread
  obtain ⟨⟨-, -, -, -, -, -, -, -, -, -, hrlt, -, hwlt, -⟩, -, ⟨hwgray, hrgray⟩, -⟩ := hinv
  have hcode : ∀ {g pub p : Nat}, g < v.cfg.blocks → v.offsetOf g = p → pub * v.cfg.block = p → g = bin2gray pub := by
    intro g pub p hg hoffset hpub
    rw [← Nat.eq_of_mul_eq_mul_right (block_pos v.cfg) (hoffset.trans hpub.symm), bin2gray_gray2bin hg]
  exact ⟨hwpub, hrpub, fun x hx => (hcode (hwlt x hx) (hwsync _ (List.mem_map_of_mem hx)) hwpub).trans hwgray.symm,
    fun x hx => (hcode (hrlt x hx) (hrsync _ (List.mem_map_of_mem hx)) hrpub).trans hrgray.symm⟩

/-! ### The edges of the FIFOs on their positions (43_gray_pointer_sync.md R250 to R253) -/

section
variable {s t : State} {i : Instr}

theorem exec_fp_writeEdge (hinv : s.fixed.Inv) (hp : i.port = .fp) (h : exec i s = .next t)
    (hfault : t.fixed.fault = none) :
    Positions.WriteEdge s.fixed.cfg.slots s.fixed.cfg.stages s.fixed.positions t.fixed.positions := by
  have hslots := one_lt_slots s.fixed.cfg
  have hnear := hinv.ordered.rpub_le _ hinv.headW_mem
  have hroom := hinv.headW_room
  have hmoves := exec_fixed_tail_moves h
  obtain ⟨hwpub, hrpub⟩ := hinv.published_lt
  obtain ⟨part, hpart, hexec⟩ := exec_fp hp
  obtain ⟨-, f, r, hok, rfl⟩ := fixedWEdge_unfaulted (hexec s s.var.cfg ▸ h) hfault
  obtain ⟨tail, resv, mem, rfl⟩ := hpart _ _ _ hok
  refine ⟨?_, cdist_publishStep_le_sub_one hwpub hinv.tail_lt, ?_, rfl, rfl, rfl⟩
  · change cdist s.fixed.rpub s.fixed.tail s.fixed.cfg.slots + cdist s.fixed.tail tail s.fixed.cfg.slots <
      s.fixed.cfg.slots
    obtain heq | ⟨hresv, heq⟩ := hmoves
    · rw [show tail = s.fixed.tail from heq, cdist_self hinv.tail_lt]
      omega
    · rw [show tail = _ from heq, cdist_self_add hinv.tail_lt hslots]
      obtain ⟨-, -, -, hresvOk⟩ := hinv
      have hfree := hresvOk hresv
      omega
  · change (shiftIn s.fixed.cfg.stages s.fixed.rgray s.fixed.rsync).map (gray2bin s.fixed.cfg.fAw) = _
    rw [hinv.grayAgrees.2, map_gray2bin_shiftIn hrpub]
    rfl

theorem exec_fc_readEdge (hinv : s.fixed.Inv) (hp : i.port = .fc) (h : exec i s = .next t)
    (hfault : t.fixed.fault = none) :
    Positions.ReadEdge s.fixed.cfg.slots s.fixed.cfg.stages s.fixed.positions t.fixed.positions := by
  have hslots := one_lt_slots s.fixed.cfg
  have hmoves := exec_fixed_head_moves h
  obtain ⟨hwpub, hrpub⟩ := hinv.published_lt
  obtain ⟨part, hpart, hexec⟩ := exec_fc hp
  obtain ⟨-, f, r, hok, rfl⟩ := fixedREdge_unfaulted (hexec s s.var.cfg ▸ h) hfault
  obtain ⟨head, rfl⟩ := hpart _ _ _ hok
  refine ⟨?_, cdist_publishStep_le_sub_one hrpub hinv.head_lt, ?_, rfl, rfl, rfl⟩
  · change cdist s.fixed.head head s.fixed.cfg.slots ≤ cdist s.fixed.head s.fixed.tail s.fixed.cfg.slots
    obtain heq | ⟨hshown, heq⟩ := hmoves
    · rw [show head = s.fixed.head from heq, cdist_self hinv.head_lt]
      exact Nat.zero_le _
    · rw [show head = _ from heq, cdist_self_add hinv.head_lt hslots]
      exact Nat.pos_of_ne_zero fun hzero =>
        hinv.head_ne_tail hshown ((cdist_eq_zero hinv.head_lt hinv.tail_lt).1 hzero)
  · change (shiftIn s.fixed.cfg.stages s.fixed.wgray s.fixed.wsync).map (gray2bin s.fixed.cfg.fAw) = _
    rw [hinv.grayAgrees.1, map_gray2bin_shiftIn hwpub]
    rfl

/-- A command moves the tail past the reserved message at most (42_variable_packet_fifo.md R188). -/
theorem exec_var_tail_moves (hinv : s.var.Inv) (h : exec i s = .next t) :
    t.var.tail = s.var.tail ∨
      (s.var.resv = true ∧ t.var.tail = (s.var.tail + s.var.resvExtent) % s.var.cfg.capacity) := by
  cases i with
  | vpPush a b =>
    obtain ⟨-, -, record, ht⟩ | ⟨-, v, r, hok, ht, -⟩ := varWEdge_faulted_or_taken h
    · exact .inl (by rw [ht])
    · obtain ⟨hresv, rfl, -⟩ := vpPushPart_ok.1 hok
      exact .inr ⟨hresv, by rw [ht]; exact segmentAt_next hinv.tail_lt (hinv.segmentAt_tail hresv)⟩
  | _ => exact .inl (exec_keeps_var_tail (by simp) h)

/-- A command moves the head past the message shown at most (42_variable_packet_fifo.md R192). -/
theorem exec_var_head_moves (h : exec i s = .next t) :
    t.var.head = s.var.head ∨
      ∃ x, vFrontView s.var = .ok (some x) ∧ t.var.head = (x.off + x.total) % s.var.cfg.capacity := by
  cases i with
  | vcPop a =>
    obtain ⟨-, -, record, ht⟩ | ⟨-, v, r, hok, ht, -⟩ := varREdge_faulted_or_taken h
    · exact .inl (by rw [ht])
    · obtain ⟨x, hshown, rfl, -⟩ := vcPopPart_ok.1 hok
      exact .inr ⟨x, hshown, by rw [ht, Variable.rTick_head]⟩
  | _ => exact .inl (exec_keeps_var_head (by simp) h)

theorem exec_vp_writeEdge (hinv : s.var.Inv) (hp : i.port = .vp) (h : exec i s = .next t)
    (hfault : t.var.fault = none) :
    Positions.WriteEdge s.var.cfg.capacity s.var.cfg.stages s.var.positions t.var.positions := by
  have hcap := block_lt_capacity s.var.cfg
  have hblock := block_pos s.var.cfg
  have hnear := hinv.ordered.rpub_le _ hinv.headW_mem
  have hroom := hinv.headW_room
  have hmoves := exec_var_tail_moves hinv h
  obtain ⟨hwpub, hrpub⟩ := hinv.published_lt
  obtain ⟨htaila, -⟩ := hinv.aligned
  obtain ⟨part, hpart, hexec⟩ := exec_vp hp
  obtain ⟨hf, -⟩ | ⟨-, v, r, hok, ht, -⟩ := varWEdge_faulted_or_taken (hexec s ▸ h)
  · exact absurd hfault hf
  · obtain ⟨tail, resv, off, total, len, mem, rfl⟩ := hpart _ _ _ hok
    rw [ht] at hmoves ⊢
    refine ⟨?_, cdist_publishStep_mul_block_le_sub_one hwpub hinv.tail_lt htaila, ?_, rfl, rfl, rfl⟩
    · change cdist (s.var.rpub * s.var.cfg.block) s.var.tail s.var.cfg.capacity +
        cdist s.var.tail tail s.var.cfg.capacity < s.var.cfg.capacity
      obtain heq | ⟨hresv, heq⟩ := hmoves
      · rw [show tail = s.var.tail from heq, cdist_self hinv.tail_lt]
        omega
      · obtain ⟨-, -, hextent⟩ := hinv.resvOk hresv
        rw [show tail = _ from heq, cdist_self_add hinv.tail_lt (by omega)]
        omega
    · change (shiftIn s.var.cfg.stages s.var.rgray s.var.rsync).map s.var.offsetOf = _
      rw [hinv.grayAgrees.2, s.var.map_offsetOf_shiftIn hrpub]
      rfl

theorem exec_vc_readEdge (hinv : s.var.Inv) (hp : i.port = .vc) (h : exec i s = .next t)
    (hfault : t.var.fault = none) :
    Positions.ReadEdge s.var.cfg.capacity s.var.cfg.stages s.var.positions t.var.positions := by
  have hpublished := hinv.cdist_head_tailR
  have hmoves := exec_var_head_moves h
  obtain ⟨hwpub, hrpub⟩ := hinv.published_lt
  obtain ⟨-, hheada, -⟩ := hinv.aligned
  obtain ⟨part, hpart, hexec⟩ := exec_vc hp
  obtain ⟨v, r, hok, ht⟩ := varREdge_unfaulted (hexec s ▸ h) hfault
  obtain ⟨head, rfl⟩ := hpart _ _ _ hok
  rw [ht] at hmoves ⊢
  refine ⟨?_, cdist_publishStep_mul_block_le_sub_one hrpub hinv.head_lt hheada, ?_, rfl, rfl, rfl⟩
  · change cdist s.var.head head s.var.cfg.capacity ≤ cdist s.var.head s.var.tail s.var.cfg.capacity
    obtain heq | ⟨x, hshown, heq⟩ := hmoves
    · rw [show head = s.var.head from heq, cdist_self hinv.head_lt]
      exact Nat.zero_le _
    · obtain ⟨e, l, -, hs, he⟩ := hinv.shown hshown
      have hlt := cdist_lt (a := s.var.head) (b := s.var.tail) (capacity_pos s.var.cfg)
      rw [show head = _ from heq, segmentAt_next hinv.head_lt hs, cdist_self_add hinv.head_lt (by omega)]
      omega
  · change (shiftIn s.var.cfg.stages s.var.wgray s.var.wsync).map s.var.offsetOf = _
    rw [hinv.grayAgrees.1, s.var.map_offsetOf_shiftIn hwpub]
    rfl

/-! ### One step of a run -/

/-- A step on a presented event is a reset or a command of the event's port. -/
theorem step_presented {e : Event} (h : step { s with pending := [e] } = .next t) :
    (∃ kind, e = .reset kind ∧ resetStep { s with pending := [] } kind = .next t) ∨
      ∃ port w i, e = .edge port w ∧ i.port = port ∧ exec i { s with pending := [] } = .next t := by
  obtain ⟨hp, -⟩ | ⟨kind, rest, hp, hreset⟩ | ⟨port, w, rest, i, hp, hd, hexec⟩ := step_next h
  · cases hp
  · cases hp
    exact .inl ⟨kind, rfl, hreset⟩
  · cases hp
    exact .inr ⟨port, w, i, rfl, decode_port hd, hexec⟩

/-- An event that is neither an edge nor the reset of the fixed-slot FIFO leaves it as it is. -/
theorem step_fixed_idle {e : Event} (h : step { s with pending := [e] } = .next t) (hreset : e ≠ .reset .fixedSlot)
    (hfp : ¬∃ w, e = .edge .fp w) (hfc : ¬∃ w, e = .edge .fc w) : t.fixed = s.fixed := by
  obtain ⟨kind, rfl, hstep⟩ | ⟨port, w, i, rfl, hport, hexec⟩ := step_presented h
  · cases kind
    · exact absurd rfl hreset
    · cases hstep
      rfl
  · cases port with
    | fp => exact absurd ⟨w, rfl⟩ hfp
    | fc => exact absurd ⟨w, rfl⟩ hfc
    | vp | vc => exact exec_var_keeps_fixed (s := { s with pending := [] }) (by rw [hport]; rfl) hexec

/-- An event that is neither an edge nor the reset of the variable-length FIFO leaves it as it is. -/
theorem step_var_idle {e : Event} (h : step { s with pending := [e] } = .next t)
    (hreset : e ≠ .reset .variableLength) (hvp : ¬∃ w, e = .edge .vp w) (hvc : ¬∃ w, e = .edge .vc w) :
    t.var = s.var := by
  obtain ⟨kind, rfl, hstep⟩ | ⟨port, w, i, rfl, hport, hexec⟩ := step_presented h
  · cases kind
    · cases hstep
      rfl
    · exact absurd rfl hreset
  · cases port with
    | vp => exact absurd ⟨w, rfl⟩ hvp
    | vc => exact absurd ⟨w, rfl⟩ hvc
    | fp | fc => exact exec_fixed_keeps_var (s := { s with pending := [] }) (by rw [hport]; rfl) hexec

/-- An event of a run without a reset that moves the head pops the message shown. -/
theorem step_var_head_moves {e : Event} (h : step { s with pending := [e] } = .next t)
    (hreset : e ≠ .reset .variableLength) (hmoves : t.var.head ≠ s.var.head) :
    ∃ x, vFrontView s.var = .ok (some x) := by
  obtain ⟨kind, rfl, hstep⟩ | ⟨port, w, i, -, -, hexec⟩ := step_presented h
  · cases kind
    · cases hstep
      exact absurd rfl hmoves
    · exact absurd rfl hreset
  · obtain heq | ⟨x, hshown, -⟩ := exec_var_head_moves hexec
    · exact absurd heq hmoves
    · exact ⟨x, hshown⟩

/-- An event of a run without a reset writes no byte that is not seen as free. -/
theorem step_storeRead_var {e : Event} (h : step { s with pending := [e] } = .next t)
    (hreset : e ≠ .reset .variableLength) (hinv : s.var.Inv) {x : Nat} (hx : ¬s.var.SeenFree x) :
    storeRead t.var.mem x = storeRead s.var.mem x := by
  obtain ⟨kind, rfl, hstep⟩ | ⟨port, w, i, -, -, hexec⟩ := step_presented h
  · cases kind
    · cases hstep
      rfl
    · exact absurd rfl hreset
  · exact exec_storeRead_var (s := { s with pending := [] }) hinv hx hexec

/-- An edge presented at a port runs a command of that port. -/
theorem step_edge_presented {port : Port} {w : Nat} (h : step { s with pending := [.edge port w] } = .next t) :
    ∃ i, i.port = port ∧ exec i { s with pending := [] } = .next t := by
  obtain ⟨kind, he, -⟩ | ⟨port, w, i, he, hport, hexec⟩ := step_presented h
  · cases he
  · cases he
    exact ⟨i, hport, hexec⟩

end

/-! ### Runs -/

section
variable {env : Nat → Event} {st : Nat → State}

theorem InfiniteRun.keeps_cfg (hrun : InfiniteRun env st) (n : Nat) :
    (st n).fixed.cfg = (st 0).fixed.cfg ∧ (st n).var.cfg = (st 0).var.cfg := by
  induction n with
  | zero => exact ⟨rfl, rfl⟩
  | succ n ih =>
    obtain ⟨hfixed, hvar⟩ := step_keeps_cfg (hrun n)
    exact ⟨hfixed.trans ih.1, hvar.trans ih.2⟩

theorem InfiniteRun.fixed_inv (hrun : InfiniteRun env st) (hinv : (st 0).fixed.Inv) (n : Nat) : (st n).fixed.Inv := by
  induction n with
  | zero => exact hinv
  | succ n ih => exact step_keeps_fixed_inv (s := { st n with pending := [env n] }) ih (hrun n)

theorem InfiniteRun.var_inv (hrun : InfiniteRun env st) (hinv : (st 0).var.Inv) (n : Nat) : (st n).var.Inv := by
  induction n with
  | zero => exact hinv
  | succ n ih => exact step_keeps_var_inv (s := { st n with pending := [env n] }) ih (hrun n)

/-- The clock of a port has infinitely many edges. -/
theorem WeaklyFair.often {kind : Kind} (hfair : WeaklyFair kind env) {port : Port} (hport : port.kind = kind)
    (n : Nat) : ∃ k, n ≤ k ∧ ∃ w, env k = .edge port w := by
  obtain ⟨k, w, hk, hedge⟩ := hfair port hport n
  exact ⟨k, hk, w, hedge⟩

/-- A fair run of the fixed-slot FIFO without a fault and without a reset is a fair run of its positions. -/
theorem InfiniteRun.fixed_fairRun (hrun : InfiniteRun env st) (hinv : (st 0).fixed.Inv)
    (hfair : WeaklyFair .fixedSlot env)
    (hclean : ∀ n, (st n).fixed.fault = none ∧ env n ≠ .reset .fixedSlot) :
    Positions.FairRun (st 0).fixed.cfg.slots (st 0).fixed.cfg.stages (fun n => (st n).fixed.positions)
      (fun n => ∃ w, env n = .edge .fp w) (fun n => ∃ w, env n = .edge .fc w) := by
  have hinv := hrun.fixed_inv hinv
  refine ⟨fun n => ?_, fun n ⟨w, he⟩ => ?_, fun n ⟨w, he⟩ => ?_, fun n hw hr => ?_, hfair.often rfl, hfair.often rfl⟩
  · rw [← (hrun.keeps_cfg n).1]
    exact (hinv n).positions_ok
  · obtain ⟨i, hp, hexec⟩ := step_edge_presented (he ▸ hrun n)
    rw [← (hrun.keeps_cfg n).1]
    exact exec_fp_writeEdge (s := { st n with pending := [] }) (hinv n) hp hexec (hclean (n + 1)).1
  · obtain ⟨i, hp, hexec⟩ := step_edge_presented (he ▸ hrun n)
    rw [← (hrun.keeps_cfg n).1]
    exact exec_fc_readEdge (s := { st n with pending := [] }) (hinv n) hp hexec (hclean (n + 1)).1
  · exact congrArg Fixed.positions (step_fixed_idle (hrun n) (hclean n).2 hw hr)

end

/-! ### Runs of the variable-length FIFO: an unread message becomes visible (43_gray_pointer_sync.md R257) -/

/-- Under the invariant a segment starts at the head of a FIFO that is not empty. -/
theorem Variable.Inv.exists_segmentAt_head {v : Variable} (hinv : v.Inv) (hne : v.head ≠ v.tail) :
    ∃ e x, segmentAt v.cfg v.mem v.head = some (e, x) ∧ e ≤ cdist v.head v.tail v.cfg.capacity := by
  obtain ⟨l, hl⟩ := hinv.exists_unread
  have hsegments := (Variable.unread_eq_some_iff hinv.head_lt).1 hl
  have hpos := mt (cdist_eq_zero hinv.head_lt hinv.tail_lt).1 hne
  generalize cdist v.head v.tail v.cfg.capacity = d at hsegments hpos
  cases hsegments with
  | nil => exact absurd rfl hpos
  | cons hs he _ => exact ⟨_, _, hs, he⟩

section
variable {env : Nat → Event} {st : Nat → State} {n k e : Nat} {x : Visible} (hrun : InfiniteRun env st)
  (hinv : (st 0).var.Inv) (hfair : WeaklyFair .variableLength env)
  (hclean : ∀ n, (st n).var.fault = none ∧ env n ≠ .reset .variableLength)

include hrun hinv hfair hclean

/-- A fair run of the variable-length FIFO without a fault and without a reset is a fair run of its positions. -/
theorem InfiniteRun.var_fairRun :
    Positions.FairRun (st 0).var.cfg.capacity (st 0).var.cfg.stages (fun n => (st n).var.positions)
      (fun n => ∃ w, env n = .edge .vp w) (fun n => ∃ w, env n = .edge .vc w) := by
  have hinv := hrun.var_inv hinv
  refine ⟨fun n => ?_, fun n ⟨w, he⟩ => ?_, fun n ⟨w, he⟩ => ?_, fun n hw hr => ?_, hfair.often rfl, hfair.often rfl⟩
  · rw [← (hrun.keeps_cfg n).2]
    exact (hinv n).positions_ok
  · obtain ⟨i, hp, hexec⟩ := step_edge_presented (he ▸ hrun n)
    rw [← (hrun.keeps_cfg n).2]
    exact exec_vp_writeEdge (s := { st n with pending := [] }) (hinv n) hp hexec (hclean (n + 1)).1
  · obtain ⟨i, hp, hexec⟩ := step_edge_presented (he ▸ hrun n)
    rw [← (hrun.keeps_cfg n).2]
    exact exec_vc_readEdge (s := { st n with pending := [] }) (hinv n) hp hexec (hclean (n + 1)).1
  · exact congrArg Variable.positions (step_var_idle (hrun n) (hclean n).2 hw hr)

/-- While the head stays, the unread region only grows. -/
theorem InfiniteRun.unread_grows (hk : n ≤ k) (hstays : ∀ j, n ≤ j → j ≤ k → (st j).var.head = (st n).var.head) :
    cdist (st n).var.head (st n).var.tail (st 0).var.cfg.capacity ≤
      cdist (st k).var.head (st k).var.tail (st 0).var.cfg.capacity := by
  have hfairRun := hrun.var_fairRun hinv hfair hclean
  have hhead := travelled_eq_of_stays (p := fun j => (st j).var.positions.head) (hfairRun.ok n).head_lt hk hstays
  have htail := travelled_mono (st 0).var.cfg.capacity (fun j => (st j).var.positions.tail) hk
  have hsumN := hfairRun.travelled_eq n
  have hsumK := hfairRun.travelled_eq k
  have hgrows : cdist (st n).var.positions.head (st n).var.positions.tail (st 0).var.cfg.capacity ≤
      cdist (st k).var.positions.head (st k).var.positions.tail (st 0).var.cfg.capacity := by omega
  exact hgrows

/-- While the head stays, the segment at it stays: nothing unread is written. -/
theorem InfiniteRun.segmentAt_head_stays
    (hs : segmentAt (st 0).var.cfg (st n).var.mem (st n).var.head = some (e, x))
    (he : e ≤ cdist (st n).var.head (st n).var.tail (st 0).var.cfg.capacity) (hk : n ≤ k)
    (hstays : ∀ j, n ≤ j → j ≤ k → (st j).var.head = (st n).var.head) :
    segmentAt (st 0).var.cfg (st k).var.mem (st n).var.head = some (e, x) := by
  have hlt := ((hrun.var_fairRun hinv hfair hclean).ok n).head_lt
  induction k, hk using Nat.le_induction with
  | base => exact hs
  | succ k hk ih =>
    have hstays := fun j hj (hjk : j ≤ k) => hstays j hj (by omega)
    have hgrows := hrun.unread_grows hinv hfair hclean hk hstays
    refine (segmentAt_congr hlt (ih hstays) fun i hi => ?_).1
    have hinv := hrun.var_inv hinv k
    have hunread := hinv.not_seenFree_of_unread (k := i) (by rw [(hrun.keeps_cfg k).2]; omega)
    rw [(hrun.keeps_cfg k).2, hstays k hk (Nat.le_refl k)] at hunread
    exact step_storeRead_var (hrun k) (hclean k).2 hinv hunread

/-- While a message is unread, some message becomes visible: the one at the head, or one that is popped before. -/
theorem InfiniteRun.eventually_shown (hne : (st n).var.head ≠ (st n).var.tail) :
    ∃ k x, n ≤ k ∧ vFrontView (st k).var = .ok (some x) := by
  have hfairRun := hrun.var_fairRun hinv hfair hclean
  obtain ⟨k, hk, hvisible⟩ := hfairRun.eventually_visible n
  by_cases hmoves : ∃ j, n ≤ j ∧ (st (j + 1)).var.head ≠ (st j).var.head
  · obtain ⟨j, hj, hmoves⟩ := hmoves
    obtain ⟨x, hx⟩ := step_var_head_moves (hrun j) (hclean j).2 hmoves
    exact ⟨j, x, hj, hx⟩
  · have hstays : ∀ j, n ≤ j → (st j).var.head = (st n).var.head := fun j hj => by
      induction j, hj using Nat.le_induction with
      | base => rfl
      | succ j hj ih => exact (not_not.1 fun hne => hmoves ⟨j, hj, hne⟩).trans ih
    obtain ⟨e, x, hs, he⟩ := (hrun.var_inv hinv n).exists_segmentAt_head hne
    rw [(hrun.keeps_cfg n).2] at hs he
    have hs := hrun.segmentAt_head_stays hinv hfair hclean hs he hk fun j hj _ => hstays j hj
    have hpublished : cdist (st n).var.head (st n).var.tail (st 0).var.cfg.capacity ≤
        cdist (st k).var.head (st k).var.tailR (st 0).var.cfg.capacity := by
      have hhead := travelled_eq_of_stays (p := fun j => (st j).var.positions.head) (hfairRun.ok n).head_lt hk
        fun j hj _ => hstays j hj
      have hsum := hfairRun.travelled_eq n
      have hview := hvisible k (Nat.le_refl k) _ (hrun.var_inv hinv k).tailR_mem
      have hle : cdist (st n).var.positions.head (st n).var.positions.tail (st 0).var.cfg.capacity ≤
          cdist (st k).var.positions.head (st k).var.tailR (st 0).var.cfg.capacity := by omega
      exact hle
    rw [hstays k hk] at hpublished
    refine ⟨k, x, hk, ?_⟩
    rw [vFrontView, (hrun.keeps_cfg k).2, hstays k hk, vFrontViewAt_of_segmentAt hs, if_neg (by omega)]

end

end Sys2Proof.Machine

/-! ### The statement -/

namespace Sys2Proof.Proofs

open Sys2Proof.Machine

/-- Settles O60: at the drive edges a published pointer comes nearer to where its pointer was, at the sample edges every
stage takes on what it has reached, and fairness gives as many of both as are needed. -/
theorem everyMoveBecomesVisibleInFairRuns : Obligations.EveryMoveBecomesVisibleInFairRuns := by
  intro env st hrun
  constructor
  · rintro hinv hfair hclean N rfl n
    have hfairRun := hrun.fixed_fairRun hinv hfair hclean
    have hinv := hrun.fixed_inv hinv
    refine ⟨?_, ?_, fun hstays => ?_⟩
    · obtain ⟨k, hk, hvisible⟩ := hfairRun.eventually_visible n
      exact ⟨k, hk, hvisible k (Nat.le_refl k) _ (hinv k).tailR_mem⟩
    · obtain ⟨k, hk, hfreed⟩ := hfairRun.eventually_freed n
      exact ⟨k, hk, hfreed k (Nat.le_refl k) _ (hinv k).headW_mem⟩
    · obtain ⟨k, hk, hsettled⟩ := hfairRun.eventually_settled hstays
      exact ⟨k, hk, fun j hj => (hinv j).settled_of_positions (hsettled j hj).1 (hsettled j hj).2⟩
  · rintro hinv hfair hclean C rfl n
    have hfairRun := hrun.var_fairRun hinv hfair hclean
    have hshown := fun hne => hrun.eventually_shown hinv hfair hclean (n := n) hne
    have hinv := hrun.var_inv hinv
    refine ⟨?_, hshown, ?_, fun hstays => ?_⟩
    · obtain ⟨k, hk, hvisible⟩ := hfairRun.eventually_visible n
      exact ⟨k, hk, hvisible k (Nat.le_refl k) _ (hinv k).tailR_mem⟩
    · obtain ⟨k, hk, hfreed⟩ := hfairRun.eventually_freed n
      exact ⟨k, hk, hfreed k (Nat.le_refl k) _ (hinv k).headW_mem⟩
    · obtain ⟨k, hk, hsettled⟩ := hfairRun.eventually_settled hstays
      exact ⟨k, hk, fun j hj => (hinv j).settled_of_positions (hsettled j hj).1 (hsettled j hj).2⟩

end Sys2Proof.Proofs

/-!
PROOFS of the statements on faults and on elaboration (60_exceptions.md): which codes a command part can raise, and
that an edge changes the fault record only where its part raises one. The facts about the model come first; the
statements are settled at the end.
-/

namespace Sys2Proof.Machine

/-! ### Which codes a command part can raise (60_exceptions.md R271, R273) -/

/-- A command part that raises no fault of the model but those with the codes listed. -/
def Raises {α : Type} (codes : List FaultCode) (p : Except Stop α) : Prop :=
  ∀ code, p = .error (.record code) → code ∈ codes

section
variable {α β : Type} {codes : List FaultCode}

theorem raises_ok (x : α) : Raises codes (.ok x) := nofun

theorem raises_noAddress (a : Nat) : Raises codes (.error (.noAddress a) : Except Stop α) := nofun

theorem raises_record {code : FaultCode} (hcode : code ∈ codes) :
    Raises codes (.error (.record code) : Except Stop α) := by
  rintro _ ⟨⟩
  exact hcode

/-- A part that passes on the error of a part raises what that part raises. -/
theorem Raises.of_eq_error {p : Except Stop α} (h : Raises codes p) {e : Stop} (hp : p = .error e) :
    Raises codes (.error e : Except Stop β) := by
  rintro code ⟨⟩
  exact h code hp

theorem Raises.mono {p : Except Stop α} {more : List FaultCode} (h : Raises codes p) (hsub : codes ⊆ more) :
    Raises more p :=
  fun code hp => hsub (h code hp)

end

/-! #### Storage, headers and the view -/

theorem readCell_raises {α : Type} (size : Nat) (m : Store α) (a : Nat) : Raises [] (readCell size m a) :=
  fun code h => absurd h (readCell_ne_record size m a code)

theorem writeCell_raises {α : Type} (size : Nat) (m : Store α) (a : Nat) (x : α) :
    Raises [] (writeCell size m a x) :=
  fun code h => absurd h (writeCell_ne_record size m a x code)

section
variable (c : VarConfig) (m : List Host.Cell)

theorem vMemRead_raises (o n : Nat) : Raises [] (vMemRead c m o n) := by
  unfold vMemRead
  split
  · exact raises_ok _
  · exact raises_noAddress _

theorem vMemWrite_raises (o n x : Nat) : Raises [] (vMemWrite c m o n x) := by
  unfold vMemWrite
  split
  · exact raises_ok _
  · exact raises_noAddress _

theorem writeHeader_raises (o total info : Nat) : Raises [] (writeHeader c m o total info) := by
  unfold writeHeader
  split
  · next hfirst => exact (vMemWrite_raises c m o 4 total).of_eq_error hfirst
  · exact vMemWrite_raises c _ (o + 4) 4 info

theorem allocMem_raises (v : Variable) (p : Placement) (len : Nat) : Raises [] (allocMem v p len) := by
  have hsentinel : Raises [] (if p.wrap then writeSentinel v.cfg v.mem v.tail else .ok v.mem) := by
    split
    · exact writeHeader_raises v.cfg v.mem v.tail v.cfg.block 0x80000000
    · exact raises_ok _
  unfold allocMem
  split
  · next hfirst => exact hsentinel.of_eq_error hfirst
  · exact writeHeader_raises v.cfg _ p.off p.total len

theorem headerOfWords_raises (o w0 w1 : Nat) : Raises [.vHeaderInvalid] (headerOfWords c o w0 w1) := by
  unfold headerOfWords
  split <;> split
  · exact raises_record (by simp)
  · exact raises_ok _
  · exact raises_record (by simp)
  · exact raises_ok _

theorem hdrDecode_raises (o : Nat) : Raises [.vHeaderInvalid] (hdrDecode c m o) := by
  unfold hdrDecode
  split
  · next hw0 => exact ((vMemRead_raises c m o 4).of_eq_error hw0).mono (by simp)
  · next hw1 => exact ((vMemRead_raises c m (o + 4) 4).of_eq_error hw1).mono (by simp)
  · exact headerOfWords_raises c o _ _
  · exact raises_record (by simp)

/-- `VFrontView` raises V_HEADER_INVALID alone, at the head or behind a sentinel (42_variable_packet_fifo.md R183). -/
theorem vFrontView_raises (v : Variable) : Raises [.vHeaderInvalid] (vFrontView v) := by
  simp only [vFrontView, vFrontViewAt]
  split
  · exact raises_ok _
  · split
    · next hd => exact (hdrDecode_raises v.cfg v.mem v.head).of_eq_error hd
    · exact raises_ok _
    · split
      · exact raises_ok _
      · split
        · next hd => exact (hdrDecode_raises v.cfg v.mem 0).of_eq_error hd
        · exact raises_record (by simp)
        · exact raises_ok _

end

/-! #### The parts of the fixed-slot FIFO (41_fixed_slot_fifo.md R133 to R140) -/

section
variable (f : Fixed)

theorem fpAllocPart_raises : Raises [] (fpAllocPart f) := by
  unfold fpAllocPart
  split <;> exact raises_ok _

theorem fpWritePart_raises (data : Nat) : Raises [.fWriteNoResv] (fpWritePart f data) := by
  unfold fpWritePart
  split
  · exact raises_record (by simp)
  · split
    · next hcell => exact ((writeCell_raises _ _ _ _).of_eq_error hcell).mono (by simp)
    · exact raises_ok _

theorem fpPushPart_raises : Raises [.fPushNoResv] (fpPushPart f) := by
  unfold fpPushPart
  split
  · exact raises_record (by simp)
  · exact raises_ok _

theorem fcFrontPart_raises : Raises [.fReadUnwritten] (fcFrontPart f) := by
  unfold fcFrontPart
  split
  · exact raises_ok _
  · split
    · next hcell => exact ((readCell_raises _ _ _).of_eq_error hcell).mono (by simp)
    · exact raises_record (by simp)
    · exact raises_ok _

theorem fcPopPart_raises : Raises [.fPopEmpty] (fcPopPart f) := by
  unfold fcPopPart
  split
  · exact raises_record (by simp)
  · exact raises_ok _

theorem fcReservedPart_raises : Raises [.fReservedCmd] (fcReservedPart f) := raises_record (by simp)

end

/-! #### The parts of the variable-length FIFO (42_variable_packet_fifo.md R185 to R192) -/

section
variable (v : Variable)

theorem vpAllocPart_raises (len : Nat) : Raises [] (vpAllocPart v len) := by
  unfold vpAllocPart
  split
  · exact raises_ok _
  · split
    · next hmem => exact (allocMem_raises v _ len).of_eq_error hmem
    · exact raises_ok _

theorem vpWritePart_raises (off : Nat) (b : Byte) :
    Raises [.vWriteNoResv, .vWriteRange] (vpWritePart v off b) := by
  unfold vpWritePart
  split
  · exact raises_record (by simp)
  · split
    · exact raises_record (by simp)
    · split
      · next hcell => exact ((writeCell_raises _ _ _ _).of_eq_error hcell).mono (by simp)
      · exact raises_ok _

theorem vpPushPart_raises : Raises [.vPushNoResv] (vpPushPart v) := by
  unfold vpPushPart
  split
  · exact raises_record (by simp)
  · exact raises_ok _

theorem vcFrontPart_raises : Raises [.vHeaderInvalid] (vcFrontPart v) := by
  unfold vcFrontPart
  split
  · next hview => exact (vFrontView_raises v).of_eq_error hview
  · exact raises_ok _
  · exact raises_ok _

theorem vcReadPart_raises (off : Nat) :
    Raises [.vHeaderInvalid, .vReadEmpty, .vReadRange, .vReadUnwritten] (vcReadPart v off) := by
  unfold vcReadPart
  split
  · next hview => exact ((vFrontView_raises v).of_eq_error hview).mono (by simp)
  · exact raises_record (by simp)
  · split
    · exact raises_record (by simp)
    · split
      · next hcell => exact ((readCell_raises _ _ _).of_eq_error hcell).mono (by simp)
      · exact raises_record (by simp)
      · exact raises_ok _

theorem vcPopPart_raises : Raises [.vHeaderInvalid, .vPopEmpty] (vcPopPart v) := by
  unfold vcPopPart
  split
  · next hview => exact ((vFrontView_raises v).of_eq_error hview).mono (by simp)
  · exact raises_record (by simp)
  · exact raises_ok _

end

/-! ### An edge changes the fault record only where its part raises a fault (60_exceptions.md R272, R274) -/

section
variable {s t : State} {w : Nat} {i : Instr} {codes : List FaultCode}

/-- An edge that is skipped or taken keeps the fault record, so one that changes it records a code of its part on a
FIFO without a fault. -/
theorem edge_changes_fault {F R : Type} {fault : State → Option FaultRecord} {p : Except Stop (F × R)}
    {skipped : State} {faulted : FaultCode → State} {taken : F → R → State}
    (hnext : (fault s ≠ none ∧ t = skipped) ∨
      (fault s = none ∧ ∃ code, p = .error (.record code) ∧ t = faulted code) ∨
      (fault s = none ∧ ∃ f r, p = .ok (f, r) ∧ t = taken f r))
    (hraises : Raises codes p) (hskipped : fault skipped = fault s)
    (htaken : ∀ f r, p = .ok (f, r) → fault (taken f r) = fault s) (hne : fault t ≠ fault s) :
    fault s = none ∧ ∃ code ∈ codes, t = faulted code := by
  obtain ⟨-, rfl⟩ | ⟨hfault, code, hp, rfl⟩ | ⟨-, f, r, hok, rfl⟩ := hnext
  · exact absurd hskipped hne
  · exact ⟨hfault, code, hraises code hp, rfl⟩
  · exact absurd (htaken f r hok) hne

theorem fixedWEdge_changes_fault {part : Fixed → Except Stop (Fixed × FpResp)} (hpart : IsFpPart part)
    (hraises : Raises codes (part s.fixed)) (h : fixedWEdge s w (part s.fixed) = .next t)
    (hne : t.fixed.fault ≠ s.fixed.fault) :
    s.fixed.fault = none ∧ ∃ code ∈ codes, t = s.putFixed (s.fixed.takeFault code .write w) .none := by
  refine edge_changes_fault (fault := (·.fixed.fault)) (fixedWEdge_next.1 h) hraises rfl (fun f r hok => ?_) hne
  obtain ⟨tail, resv, mem, rfl⟩ := hpart _ _ _ hok
  rfl

theorem fixedREdge_changes_fault {part : Fixed → Except Stop (Fixed × FcResp)} (hpart : IsFcPart part)
    (hraises : Raises codes (part s.fixed)) (h : fixedREdge s w (part s.fixed) = .next t)
    (hne : t.fixed.fault ≠ s.fixed.fault) :
    s.fixed.fault = none ∧ ∃ code ∈ codes, t = s.putFixed (s.fixed.takeFault code .read w) .none := by
  refine edge_changes_fault (fault := (·.fixed.fault)) (fixedREdge_next.1 h) hraises rfl (fun f r hok => ?_) hne
  obtain ⟨head, rfl⟩ := hpart _ _ _ hok
  rfl

theorem varWEdge_changes_fault {part : Variable → Except Stop (Variable × VpResp)} (hpart : IsVpPart part)
    (hraises : Raises codes (part s.var)) (h : varWEdge s w (part s.var) = .next t)
    (hne : t.var.fault ≠ s.var.fault) :
    s.var.fault = none ∧ ∃ code ∈ codes, t = s.putVar (s.var.takeFault code .write w) .none := by
  refine edge_changes_fault (fault := (·.var.fault)) (varWEdge_next.1 h) hraises rfl (fun v r hok => ?_) hne
  obtain ⟨tail, resv, off, total, len, mem, rfl⟩ := hpart _ _ _ hok
  rfl

theorem varREdge_changes_fault {part : Variable → Except Stop (Variable × VcResp)} (hpart : IsVcPart part)
    (hraises : Raises codes (part s.var)) (h : varREdge s w (part s.var) = .next t)
    (hne : t.var.fault ≠ s.var.fault) :
    s.var.fault = none ∧ ∃ code ∈ codes, t = s.putVar (s.var.takeFault code .read w) .none := by
  refine edge_changes_fault (fault := (·.var.fault)) (varREdge_next.1 h) hraises rfl (fun v r hok => ?_) hne
  obtain ⟨head, rfl⟩ := hpart _ _ _ hok
  rfl

/-- A command of the fixed-slot FIFO that changes its fault record faults with one of the command's own codes. -/
theorem exec_changes_fixed_fault (hk : i.port.kind = .fixedSlot) (h : exec i s = .next t)
    (hne : t.fixed.fault ≠ s.fixed.fault) :
    s.fixed.fault = none ∧ ∃ code ∈ raisedBy i, t = s.fixedFaulted code i := by
  cases i with
  | fpNop data => exact fixedWEdge_changes_fault fpNopPart_isFpPart (raises_ok _) h hne
  | fpAlloc data => exact fixedWEdge_changes_fault fpAllocPart_isFpPart (fpAllocPart_raises _) h hne
  | fpWrite data => exact fixedWEdge_changes_fault (fpWritePart_isFpPart data) (fpWritePart_raises _ data) h hne
  | fpPush data => exact fixedWEdge_changes_fault fpPushPart_isFpPart (fpPushPart_raises _) h hne
  | fcNop => exact fixedREdge_changes_fault fcNopPart_isFcPart (raises_ok _) h hne
  | fcFront => exact fixedREdge_changes_fault fcFrontPart_isFcPart (fcFrontPart_raises _) h hne
  | fcPop => exact fixedREdge_changes_fault fcPopPart_isFcPart (fcPopPart_raises _) h hne
  | fcReserved => exact fixedREdge_changes_fault fcReservedPart_isFcPart (fcReservedPart_raises _) h hne
  | _ => cases hk

/-- A command of the variable-length FIFO that changes its fault record faults with one of the command's own codes. -/
theorem exec_changes_var_fault (hk : i.port.kind = .variableLength) (h : exec i s = .next t)
    (hne : t.var.fault ≠ s.var.fault) :
    s.var.fault = none ∧ ∃ code ∈ raisedBy i, t = s.varFaulted code i := by
  cases i with
  | vpNop a b => exact varWEdge_changes_fault vpNopPart_isVpPart (raises_ok _) h hne
  | vpAlloc len b => exact varWEdge_changes_fault (vpAllocPart_isVpPart len) (vpAllocPart_raises _ len) h hne
  | vpWrite off b => exact varWEdge_changes_fault (vpWritePart_isVpPart off b) (vpWritePart_raises _ off b) h hne
  | vpPush a b => exact varWEdge_changes_fault vpPushPart_isVpPart (vpPushPart_raises _) h hne
  | vcNop a => exact varREdge_changes_fault vcNopPart_isVcPart (raises_ok _) h hne
  | vcFront a => exact varREdge_changes_fault vcFrontPart_isVcPart (vcFrontPart_raises _) h hne
  | vcRead off => exact varREdge_changes_fault (vcReadPart_isVcPart off) (vcReadPart_raises _ off) h hne
  | vcPop a => exact varREdge_changes_fault vcPopPart_isVcPart (vcPopPart_raises _) h hne
  | _ => cases hk

theorem kind_of_changes_fixed_fault (h : exec i s = .next t) (hne : t.fixed.fault ≠ s.fixed.fault) :
    i.port.kind = .fixedSlot := by
  cases hk : i.port.kind with
  | fixedSlot => rfl
  | variableLength => exact absurd (by rw [exec_var_keeps_fixed hk h]) hne

theorem kind_of_changes_var_fault (h : exec i s = .next t) (hne : t.var.fault ≠ s.var.fault) :
    i.port.kind = .variableLength := by
  cases hk : i.port.kind with
  | fixedSlot => exact absurd (by rw [exec_fixed_keeps_var hk h]) hne
  | variableLength => rfl

end

/-! ### Elaboration and the derived parameters (60_exceptions.md R289; 00_scope.md R11) -/

theorem fixedElaborate_eq_some {p : FixedParams} {c : FixedConfig} :
    FixedConfig.elaborate p = some c ↔ c.toFixedParams = p := by
  unfold FixedConfig.elaborate
  split
  · constructor
    · rintro ⟨⟩
      rfl
    · rintro rfl
      rfl
  · next hillegal => exact ⟨nofun, fun hc => absurd (hc ▸ c.legal) hillegal⟩

theorem varElaborate_eq_some {p : VarParams} {c : VarConfig} :
    VarConfig.elaborate p = some c ↔ c.toVarParams = p := by
  unfold VarConfig.elaborate
  split
  · constructor
    · rintro ⟨⟩
      rfl
    · rintro rfl
      rfl
  · next hillegal => exact ⟨nofun, fun hc => absurd (hc ▸ c.legal) hillegal⟩

theorem fixedElaborate_isSome {p : FixedParams} : (FixedConfig.elaborate p).isSome = true ↔ p.Legal := by
  rw [Option.isSome_iff_exists]
  constructor
  · rintro ⟨c, hc⟩
    exact fixedElaborate_eq_some.1 hc ▸ c.legal
  · exact fun hlegal => ⟨⟨p, hlegal⟩, fixedElaborate_eq_some.2 rfl⟩

theorem varElaborate_isSome {p : VarParams} : (VarConfig.elaborate p).isSome = true ↔ p.Legal := by
  rw [Option.isSome_iff_exists]
  constructor
  · rintro ⟨c, hc⟩
    exact varElaborate_eq_some.1 hc ▸ c.legal
  · exact fun hlegal => ⟨⟨p, hlegal⟩, varElaborate_eq_some.2 rfl⟩

/-- `K ≤ L - 1`, as R11 has it, is `K + 1 ≤ L` where `L` is at least 4. -/
theorem VarParams.legal_iff {p : VarParams} :
    p.Legal ↔ 4 ≤ p.l ∧ p.l ≤ 31 ∧ 3 ≤ p.k ∧ p.k ≤ p.l - 1 ∧ 2 ≤ p.stages := by
  unfold VarParams.Legal
  omega

/-- `B ≤ C / 2`: the capacity is a multiple of the block and more than one block (00_scope.md R11). -/
theorem block_le_half_capacity (c : VarConfig) : c.block ≤ c.capacity / 2 := by
  have htwo := add_block_le (Nat.mod_self c.block) (capacity_mod_block c) (block_lt_capacity c)
  omega

theorem one_le_ptrWidth (c : VarConfig) : 1 ≤ c.ptrWidth := by
  obtain ⟨-, -, -, hkl, -⟩ := c.legal
  exact Nat.le_sub_of_add_le' hkl

end Sys2Proof.Machine

/-! ### The statements -/

namespace Sys2Proof.Proofs

open Sys2Proof.Machine

/-- Settles O23: an edge that is skipped or taken keeps the fault record, and an edge that faults records the code its
command part raises, which is one of the command's own. -/
theorem faultsArePreciseAndOfTheirCommand : Obligations.FaultsArePreciseAndOfTheirCommand := by
  refine ⟨fun i s t h => ⟨fun hne => ?_, fun hne => ?_⟩, by decide⟩
  · have hk := kind_of_changes_fixed_fault h hne
    obtain ⟨hfault, code, hcode, rfl⟩ := exec_changes_fixed_fault hk h hne
    exact ⟨hfault, hk, code, hcode, rfl, rfl⟩
  · have hk := kind_of_changes_var_fault h hne
    obtain ⟨hfault, code, hcode, rfl⟩ := exec_changes_var_fault hk h hne
    exact ⟨hfault, hk, code, hcode, rfl, rfl⟩

/-- Settles O29: a configuration is its parameters with the proof that they are legal, and the derived values are powers
of two whose exponents R11 bounds. -/
theorem elaborationRefusesIllegalParameters : Obligations.ElaborationRefusesIllegalParameters :=
  ⟨fun _ => ⟨fixedElaborate_isSome, fun _ => fixedElaborate_eq_some.1⟩,
    fun _ => ⟨varElaborate_isSome.trans VarParams.legal_iff, fun _ => varElaborate_eq_some.1⟩,
    fun c => ⟨rfl, one_lt_slots c⟩,
    fun c => ⟨rfl, rfl, eight_le_block c, block_le_half_capacity c, one_le_ptrWidth c, blocks_mul_block c⟩⟩

end Sys2Proof.Proofs

/-!
PROOFS of the statements on Reset and the hazards around it (70_reset_and_hazards.md): what Reset leaves and what the
first commands after it answer (R300 to R307), that the status outputs are conservative (R316), and that the settle
procedure settles (R321). The facts about the model come first; the statements are settled at the end.
-/

namespace Sys2Proof.Machine

/-! ### The status outputs (10_state.md R43) -/

theorem Fixed.wfull_iff {f : Fixed} : f.wfull = true ↔ (f.tail + 1) % f.cfg.slots = f.headW := decide_eq_true_iff

theorem Fixed.rempty_iff {f : Fixed} : f.rempty = true ↔ f.head = f.tailR := decide_eq_true_iff

theorem Variable.rempty_eq_true_iff {v : Variable} : v.rempty = some true ↔ vFrontView v = .ok none := by
  cases hview : vFrontView v with
  | error stop => simp [rempty, hview]
  | ok shown => cases shown <;> simp [rempty, hview]

theorem Variable.rempty_eq_false_iff {v : Variable} :
    v.rempty = some false ↔ ∃ m, vFrontView v = .ok (some m) := by
  cases hview : vFrontView v with
  | error stop => simp [rempty, hview]
  | ok shown => cases shown <;> simp [rempty, hview]

/-! ### The status outputs are conservative (70_reset_and_hazards.md R316) -/

/-- A full FIFO is as long as the chain may get, so the producer's view of the head has no room to lag (R247). -/
theorem Fixed.Inv.headW_eq_head_of_full {f : Fixed} (hinv : f.Inv) (hfull : (f.tail + 1) % f.cfg.slots = f.head) :
    f.headW = f.head := by
  have horder := hinv.views_in_order
  have htriangle := cdist_triangle (slots_pos f.cfg) f.head f.tailR f.tail
  obtain ⟨⟨-, -, -, hhead, -⟩, -, ⟨-, hlength⟩, -⟩ := hinv
  have hroom : f.cfg.slots ≤ cdist f.head f.tail f.cfg.slots + 1 := by
    by_contra hlt
    have hsucc := cdist_succ_right (Nat.not_le.1 hlt)
    rw [hfull, cdist_self hhead] at hsucc
    omega
  exact (cdist_eq_zero f.headW_lt hhead).1 (by omega)

theorem Fixed.Inv.tailR_eq_head_of_empty {f : Fixed} (hinv : f.Inv) (hempty : f.head = f.tail) : f.head = f.tailR := by
  by_contra hshown
  exact hinv.head_ne_tail hshown hempty

/-- Where nothing is published beyond the head, nothing is shown (R183). -/
theorem vFrontView_of_cdist_eq_zero {v : Variable} (h : cdist v.head v.tailR v.cfg.capacity = 0) :
    vFrontView v = .ok none := if_pos h

theorem Variable.Inv.vFrontView_of_empty {v : Variable} (hinv : v.Inv) (hempty : v.head = v.tail) :
    vFrontView v = .ok none := by
  have hpublished := hinv.cdist_head_tailR
  rw [(cdist_eq_zero hinv.head_lt hinv.tail_lt).2 hempty] at hpublished
  exact vFrontView_of_cdist_eq_zero (Nat.eq_zero_of_add_eq_zero_right hpublished)

/-! ### What Reset leaves (70_reset_and_hazards.md R301 to R303) -/

@[simp] theorem Fixed.tailR_doReset (f : Fixed) : f.doReset.tailR = 0 := by
  simp [Fixed.tailR]

@[simp] theorem Fixed.headW_doReset (f : Fixed) : f.doReset.headW = 0 := Fixed.headW_powerUp f.cfg

theorem Fixed.settled_doReset (f : Fixed) : f.doReset.Settled := Fixed.settled_powerUp f.cfg

@[simp] theorem Variable.tailR_doReset (v : Variable) : v.doReset.tailR = 0 := by
  simp [Variable.tailR]

@[simp] theorem Variable.headW_doReset (v : Variable) : v.doReset.headW = 0 := Variable.headW_powerUp v.cfg

theorem Variable.settled_doReset (v : Variable) : v.doReset.Settled := Variable.settled_powerUp v.cfg

theorem Variable.vFrontView_doReset (v : Variable) : vFrontView v.doReset = .ok none := by
  refine vFrontView_of_cdist_eq_zero ?_
  rw [v.tailR_doReset]
  exact cdist_self (capacity_pos v.cfg)

/-! ### The first commands after Reset (70_reset_and_hazards.md R307) -/

theorem Fixed.not_full_doReset (f : Fixed) : (f.doReset.tail + 1) % f.doReset.cfg.slots ≠ f.doReset.headW := by
  rw [f.headW_doReset]
  exact (Nat.mod_eq_of_lt (one_lt_slots f.cfg)).trans_ne one_ne_zero

/-- In the empty FIFO at offset 0 a message goes to 0 where its TOTAL leaves a block free (R177). -/
theorem Variable.vPlace_doReset (v : Variable) {len : Nat}
    (hfits : totalOf v.cfg len ≤ v.cfg.capacity - v.cfg.block) :
    vPlace v.doReset len = some { off := 0, total := totalOf v.cfg len, wrap := false } := by
  have hblock := block_pos v.cfg
  have hcapacity := capacity_pos v.cfg
  rw [vPlace, v.headW_doReset]
  refine vPlaceAt_eq_some_iff.2 ⟨rfl, .inl ⟨Nat.zero_le _, .inl ?_, rfl, rfl⟩⟩
  simp only [doReset_tail, doReset_cfg]
  omega

/-! ### The settle procedure (70_reset_and_hazards.md R321) -/

/-- A sample taken in at least `S` times stands in every stage (R239). -/
theorem shiftIn_iterate_of_le {stages n : Nat} {sync : List Nat} (hlength : sync.length = stages) (g : Nat)
    (hn : stages ≤ n) : (shiftIn stages g)^[n] sync = List.replicate stages g := by
  rw [shiftIn_iterate hlength, List.take_append_of_le_length (by rwa [List.length_replicate]), List.take_replicate,
    Nat.min_eq_left hn]

theorem length_shiftIn_iterate {stages : Nat} {sync : List Nat} (hlength : sync.length = stages) (g n : Nat) :
    ((shiftIn stages g)^[n] sync).length = stages := by
  rw [shiftIn_iterate hlength, List.length_take, List.length_append, hlength, Nat.min_eq_left (Nat.le_add_left ..)]

theorem lastStage_replicate {stages : Nat} (hstages : 0 < stages) (g : Nat) :
    lastStage stages (List.replicate stages g) = g :=
  lastStage_of_forall List.length_replicate hstages fun _ => List.eq_of_mem_replicate

/-- Enough publish steps bring a published pointer to its pointer (R233). -/
theorem publishStep_iterate_of_le {pub ptr m n : Nat} (hpub : pub < m) (hptr : ptr < m) (hn : cdist pub ptr m ≤ n) :
    (publishStep · ptr m)^[n] pub = ptr := by
  rw [publishStep_iterate hpub hptr, Nat.min_eq_right hn, add_cdist_mod hpub hptr]

theorem cdist_le_one_of_near {pub ptr m : Nat} (hpub : pub < m) (hptr : ptr < m)
    (hnear : pub = ptr ∨ (pub + 1) % m = ptr) : cdist pub ptr m ≤ 1 := by
  by_cases heq : pub = ptr
  · rw [(cdist_eq_zero hpub hptr).2 heq]
    exact Nat.zero_le _
  · rw [cdist_succ_left hpub hptr heq, hnear.resolve_left heq, cdist_self hptr]

/-- What `n` write-domain edges without a command leave, the published tail included. -/
theorem Fixed.wNop_iterate_published {f : Fixed} (hgray : f.wgray = bin2gray f.wpub) (n : Nat) :
    Fixed.wNop^[n] f =
      { f with
        wpub := (publishStep · f.tail f.cfg.slots)^[n] f.wpub
        wgray := bin2gray ((publishStep · f.tail f.cfg.slots)^[n] f.wpub)
        rsync := (shiftIn f.cfg.stages f.rgray)^[n] f.rsync } := by
  induction n with
  | zero => simp only [Function.iterate_zero_apply, ← hgray]
  | succ n ih =>
    simp only [Function.iterate_succ_apply', ih]
    rfl

/-- What `n` read-domain edges without a command leave, the published head included. -/
theorem Fixed.rNop_iterate_published {f : Fixed} (hgray : f.rgray = bin2gray f.rpub) (n : Nat) :
    Fixed.rNop^[n] f =
      { f with
        rpub := (publishStep · f.head f.cfg.slots)^[n] f.rpub
        rgray := bin2gray ((publishStep · f.head f.cfg.slots)^[n] f.rpub)
        wsync := (shiftIn f.cfg.stages f.wgray)^[n] f.wsync } := by
  induction n with
  | zero => simp only [Function.iterate_zero_apply, ← hgray]
  | succ n ih =>
    simp only [Function.iterate_succ_apply', ih]
    rfl

/-- The settled FIFO with the same pointers: both are published and shifted through. -/
def Fixed.settle (f : Fixed) : Fixed :=
  { f with
    wpub := f.tail
    wgray := bin2gray f.tail
    rpub := f.head
    rgray := bin2gray f.head
    wsync := List.replicate f.cfg.stages (bin2gray f.tail)
    rsync := List.replicate f.cfg.stages (bin2gray f.head) }

/-- The settled FIFO with the same pointers: the blocks of both are published and shifted through. -/
def Variable.settle (v : Variable) : Variable :=
  { v with
    wpub := v.tail / v.cfg.block
    wgray := bin2gray (v.tail / v.cfg.block)
    rpub := v.head / v.cfg.block
    rgray := bin2gray (v.head / v.cfg.block)
    wsync := List.replicate v.cfg.stages (bin2gray (v.tail / v.cfg.block))
    rsync := List.replicate v.cfg.stages (bin2gray (v.head / v.cfg.block)) }

section
variable {f : Fixed} {v : Variable} {s : State}

theorem Fixed.settled_settle (f : Fixed) : f.settle.Settled :=
  ⟨rfl, rfl, fun _ => List.eq_of_mem_replicate, fun _ => List.eq_of_mem_replicate⟩

theorem Variable.Inv.settled_settle (hinv : v.Inv) : v.settle.Settled := by
  obtain ⟨htail, hhead, -⟩ := hinv.aligned
  exact ⟨div_block_mul htail, div_block_mul hhead, fun _ => List.eq_of_mem_replicate,
    fun _ => List.eq_of_mem_replicate⟩

theorem Fixed.Inv.views_settle (hinv : f.Inv) : f.settle.tailR = f.tail ∧ f.settle.headW = f.head := by
  constructor
  · rw [Fixed.tailR, Fixed.settle, lastStage_replicate (fixed_stages_pos _), gray2bin_bin2gray hinv.tail_lt]
  · rw [Fixed.headW, Fixed.settle, lastStage_replicate (fixed_stages_pos _), gray2bin_bin2gray hinv.head_lt]

theorem Variable.Inv.views_settle (hinv : v.Inv) : v.settle.tailR = v.tail ∧ v.settle.headW = v.head := by
  obtain ⟨htail, hhead, -⟩ := hinv.aligned
  constructor
  · rw [Variable.tailR, Variable.settle, lastStage_replicate (var_stages_pos _),
      gray2bin_bin2gray (div_block_lt hinv.tail_lt), div_block_mul htail]
  · rw [Variable.headW, Variable.settle, lastStage_replicate (var_stages_pos _),
      gray2bin_bin2gray (div_block_lt hinv.head_lt), div_block_mul hhead]

/-- Write edges publish the tail, read edges publish the head and shift the tail through, and write edges shift the
head through. -/
theorem Fixed.Inv.nops_settle (hinv : f.Inv) {j k l : Nat} (hj : cdist f.wpub f.tail f.cfg.slots ≤ j)
    (hk : cdist f.rpub f.head f.cfg.slots ≤ k) (hks : f.cfg.stages ≤ k) (hls : f.cfg.stages ≤ l) :
    Fixed.wNop^[l] (Fixed.rNop^[k] (Fixed.wNop^[j] f)) = f.settle := by
  obtain ⟨hwpub, hrpub⟩ := hinv.published_lt
  obtain ⟨hrlength, hwlength⟩ := hinv.sync_length
  have htail := hinv.tail_lt
  have hwrite := publishStep_iterate_of_le hwpub htail hj
  have hread := publishStep_iterate_of_le hrpub hinv.head_lt hk
  have hkept := publishStep_iterate_of_le htail htail ((cdist_self htail).trans_le (Nat.zero_le l))
  obtain ⟨-, ⟨hwgray, hrgray⟩, -⟩ := hinv
  rw [Fixed.wNop_iterate_published hwgray, Fixed.rNop_iterate_published, Fixed.wNop_iterate_published]
  · simp only [hwrite, hread, hkept, shiftIn_iterate_of_le hwlength _ hks,
      shiftIn_iterate_of_le (length_shiftIn_iterate hrlength _ _) _ hls]
    rfl
  · rfl
  · exact hrgray

/-- Write edges publish the tail's block, read edges publish the head's and shift the tail's through, and write edges
shift the head's through. -/
theorem Variable.Inv.nops_settle (hinv : v.Inv) {j k l : Nat} (hj : v.cfg.blocks ≤ j) (hk : v.cfg.blocks ≤ k)
    (hks : v.cfg.stages ≤ k) (hls : v.cfg.stages ≤ l) :
    Variable.wNop^[l] (Variable.rNop^[k] (Variable.wNop^[j] v)) = v.settle := by
  obtain ⟨hwpub, hrpub⟩ := hinv.published_lt
  obtain ⟨hwgray, hrgray⟩ := hinv.grayAgrees
  have htail := div_block_lt hinv.tail_lt
  have hnear (pub ptr : Nat) : cdist pub ptr v.cfg.blocks ≤ v.cfg.blocks := (cdist_lt (blocks_pos _)).le
  have hwrite := publishStep_iterate_of_le hwpub htail ((hnear _ _).trans hj)
  have hread := publishStep_iterate_of_le hrpub (div_block_lt hinv.head_lt) ((hnear _ _).trans hk)
  have hkept := publishStep_iterate_of_le htail htail ((cdist_self htail).trans_le (Nat.zero_le l))
  rw [Variable.wNop_iterate hwgray, Variable.rNop_iterate, Variable.wNop_iterate]
  · simp only [hwrite, hread, hkept, shiftIn_iterate_of_le hinv.wsync_length _ hks,
      shiftIn_iterate_of_le (length_shiftIn_iterate hinv.rsync_length _ _) _ hls]
    rfl
  · rfl
  · exact hrgray

theorem execAll_fixed_nops (hfault : s.fixed.fault = none) (j k l : Nat) :
    ∃ t, execAll (List.replicate j (.fpNop 0) ++ List.replicate k .fcNop ++ List.replicate l (.fpNop 0)) s = .next t ∧
      t.fixed = Fixed.wNop^[l] (Fixed.rNop^[k] (Fixed.wNop^[j] s.fixed)) := by
  obtain ⟨t₁, ht₁, hfixed₁⟩ := execAll_fpNop_replicate hfault j
  obtain ⟨wpub, wgray, hwrite⟩ := s.fixed.wNop_iterate j
  have hfault₁ : t₁.fixed.fault = none := by rw [hfixed₁, hwrite, hfault]
  obtain ⟨t₂, ht₂, hfixed₂⟩ := execAll_fcNop_replicate hfault₁ k
  obtain ⟨rpub, rgray, hread⟩ := t₁.fixed.rNop_iterate k
  obtain ⟨t, ht, hfixed⟩ := execAll_fpNop_replicate (s := t₂) (by rw [hfixed₂, hread, hfault₁]) l
  exact ⟨t, execAll_append.2 ⟨t₂, execAll_append.2 ⟨t₁, ht₁, ht₂⟩, ht⟩, by rw [hfixed, hfixed₂, hfixed₁]⟩

theorem execAll_var_nops (hfault : s.var.fault = none) (j k l : Nat) :
    ∃ t, execAll (List.replicate j (.vpNop 0 0) ++ List.replicate k (.vcNop 0) ++
        List.replicate l (.vpNop 0 0)) s = .next t ∧
      t.var = Variable.wNop^[l] (Variable.rNop^[k] (Variable.wNop^[j] s.var)) := by
  obtain ⟨t₁, ht₁, hvar₁⟩ := execAll_vpNop_replicate hfault j
  obtain ⟨-, -, hwrite, -⟩ := s.var.wNop_iterate_frame j
  have hfault₁ : t₁.var.fault = none := by rw [hvar₁, hwrite, hfault]
  obtain ⟨t₂, ht₂, hvar₂⟩ := execAll_vcNop_replicate hfault₁ k
  obtain ⟨-, -, hread, -⟩ := t₁.var.rNop_iterate_frame k
  obtain ⟨t, ht, hvar⟩ := execAll_vpNop_replicate (s := t₂) (by rw [hvar₂, hread, hfault₁]) l
  exact ⟨t, execAll_append.2 ⟨t₂, execAll_append.2 ⟨t₁, ht₁, ht₂⟩, ht⟩, by rw [hvar, hvar₂, hvar₁]⟩

end

end Sys2Proof.Machine

/-! ### The statements -/

namespace Sys2Proof.Proofs

open Sys2Proof.Machine

/-- Settles O7: after Reset pointers and views are 0, so no FIFO is full or shows anything, and a message that leaves a
block free is placed at 0. -/
theorem firstResponsesAfterReset : Obligations.FirstResponsesAfterReset := by
  rintro f v pending r s rfl
  refine ⟨fun data => ?_, ?_, fun len b hfits => ?_, fun a => ?_⟩
  · obtain ⟨t, hexec, ⟨-, -, hresp⟩, -⟩ := fixedWEdge_taken (w := fpWord 1 data)
      (s := ⟨f.doReset, v.doReset, pending, r⟩) fpAllocPart_isFpPart rfl
      (fpAllocPart_ok.2 (.inl ⟨f.not_full_doReset, rfl, rfl⟩))
    exact ⟨t, hexec, hresp⟩
  · obtain ⟨t, hexec, ⟨-, -, hresp⟩, -⟩ := fixedREdge_taken (w := fcWord 1) (s := ⟨f.doReset, v.doReset, pending, r⟩)
      fcFrontPart_isFcPart rfl (fcFrontPart_ok.2 ⟨rfl, .inl ⟨f.tailR_doReset.symm, rfl⟩⟩)
    exact ⟨t, hexec, hresp⟩
  · obtain ⟨t, hexec, -, -, hresp, -⟩ := exec_vpAlloc_placed (b := b)
      (s := ⟨f.doReset, v.doReset, pending, r⟩) rfl (v.vPlace_doReset hfits) nofun
    exact ⟨t, hexec, hresp⟩
  · obtain ⟨t, hexec, ⟨-, -, hresp⟩, -⟩ := varREdge_taken (w := vcWord 1 a) (s := ⟨f.doReset, v.doReset, pending, r⟩)
      vcFrontPart_isVcPart rfl (vcFrontPart_ok.2 ⟨rfl, .inl ⟨v.vFrontView_doReset, rfl⟩⟩)
    exact ⟨t, hexec, hresp⟩

/-- Settles O55: where the FIFO is full or empty, the chain leaves the views no room to lag behind the pointers. -/
theorem statusOutputsAreConservative : Obligations.StatusOutputsAreConservative :=
  ⟨fun _ => ⟨Fixed.wfull_iff, rfl, Fixed.rempty_iff⟩,
    fun _ => ⟨rfl, Variable.rempty_eq_true_iff, Variable.rempty_eq_false_iff⟩,
    fun _ hinv => ⟨fun hfull => Fixed.wfull_iff.2 (hfull.trans (hinv.headW_eq_head_of_full hfull).symm),
      fun hempty => Fixed.rempty_iff.2 (hinv.tailR_eq_head_of_empty hempty)⟩,
    fun _ hinv hempty => Variable.rempty_eq_true_iff.2 (hinv.vFrontView_of_empty hempty)⟩

/-- Settles O58: the first write edges publish the tail, the read edges publish the head and shift the tail through, and
the last write edges shift the head through; a near pointer needs one publish step and any other less than `NB`. -/
theorem settleProcedureSettles : Obligations.SettleProcedureSettles := by
  refine fun s => ⟨fun hinv ⟨hwnear, hrnear⟩ hfault => ?_, fun hinv hfault => ?_⟩
  · obtain ⟨hwpub, hrpub⟩ := hinv.published_lt
    obtain ⟨t, ht, hfixed⟩ := execAll_fixed_nops hfault (1 + s.fixed.cfg.stages) (1 + s.fixed.cfg.stages)
      s.fixed.cfg.stages
    rw [hinv.nops_settle (Nat.le_add_right_of_le (cdist_le_one_of_near hwpub hinv.tail_lt hwnear))
      (Nat.le_add_right_of_le (cdist_le_one_of_near hrpub hinv.head_lt hrnear)) (Nat.le_add_left ..) le_rfl] at hfixed
    exact ⟨t, ht, hfixed ▸ ⟨s.fixed.settled_settle, rfl, rfl, hinv.views_settle⟩⟩
  · obtain ⟨t, ht, hvar⟩ := execAll_var_nops hfault (s.var.cfg.blocks + s.var.cfg.stages)
      (s.var.cfg.blocks + s.var.cfg.stages) s.var.cfg.stages
    rw [hinv.nops_settle (Nat.le_add_right ..) (Nat.le_add_right ..) (Nat.le_add_left ..) le_rfl] at hvar
    exact ⟨t, ht, hvar ▸ ⟨hinv.settled_settle, rfl, rfl, hinv.views_settle⟩⟩

/-- Settles O6: the step is the Reset transition, whose state is that of power-up with the storage kept. -/
theorem resetClearsRegistersAndKeepsStorage : Obligations.ResetClearsRegistersAndKeepsStorage := by
  refine fun s rest => ⟨fun hpending => ⟨_, step_reset hpending, ?_⟩, fun hpending => ⟨_, step_reset hpending, ?_⟩⟩
  · exact ⟨rfl, rfl, rfl, rfl, rfl, rfl, rfl, rfl, rfl, rfl, rfl, fun _ => rfl, s.fixed.settled_doReset,
      Fixed.rempty_iff.2 s.fixed.tailR_doReset.symm, rfl, rfl, rfl⟩
  · exact ⟨rfl, rfl, rfl, rfl, rfl, rfl, rfl, rfl, rfl, rfl, rfl, rfl, rfl, rfl, fun _ => rfl,
      s.var.settled_doReset, Variable.rempty_eq_true_iff.2 s.var.vFrontView_doReset, rfl, rfl, rfl⟩

end Sys2Proof.Proofs
